-- ==== Sys2Proof/Word.lean ====
section
/-! DEFINITION. The byte and the 32-bit word of the machine (10_state.md R20, R30). -/

namespace Sys2Proof

/-- A byte: 8 bits (10_state.md R30). -/
abbrev Byte := BitVec 8

/-- A register value: 32 bits, bit 0 the least significant (00_scope.md R9, R11). -/
abbrev Word := BitVec 32

end Sys2Proof
end

