-- ==== Sys2Proof/Syntax.lean ====
section
/-! DEFINITION. The instructions, one constructor per row of spec/opcode_table.json (30_encoding.md R64), and the names of
the registers they use. -/

namespace Sys2Proof

/-- The instruction set: CPUID and nothing else (30_encoding.md R64, 00_scope.md R5). -/
inductive Instr where
  /-- `CPUID`: no operand field; every operand is implicit (30_encoding.md R62, R63). -/
  | cpuid
  deriving DecidableEq, Repr

/-- The general registers the source names (10_state.md R20). -/
inductive GenReg where
  | EAX
  | EBX
  | ECX
  | EDX
  deriving DecidableEq, Repr

end Sys2Proof
end

