-- ==== Sys2Proof/Machine/Operands.lean ====
section
/-! DEFINITION. The operand forms: the bit and byte primitives of 00_scope.md R9 and R11, and CPUID's implicit operands
(30_encoding.md R62). -/

namespace Sys2Proof.Machine

/-- `byte_k(v)`: bits 8k+7 to 8k (00_scope.md R9). -/
def byteOf (k : Nat) (v : Word) : Byte := v.extractLsb' (8 * k) 8

/-- `v[hi:lo]`: bits hi down to lo, inclusive (00_scope.md R9). -/
def fieldOf (hi lo : Nat) (v : Word) : BitVec (hi - lo + 1) := v.extractLsb' lo (hi - lo + 1)

/-- `v[i]` (00_scope.md R9). -/
def bitOf (i : Nat) (v : Word) : Bool := v.getLsbD i

/-- `zext_32(v)` (00_scope.md R11). -/
def zext32 {n : Nat} (v : BitVec n) : Word := v.zeroExtend 32

/-- `sext_32(v)` (00_scope.md R11); no rule in scope uses it. -/
def sext32 {n : Nat} (v : BitVec n) : Word := v.signExtend 32

/-- The `n` low bytes of `v`, byte 0 first: the order in which data lies in memory (20_memory.md R42).
PRESUMED, safe (no rule in scope stores data): log entry 19. -/
def leBytes (n : Nat) (v : Word) : List Byte := (List.range n).map (fun k => byteOf k v)

/-- The implicit source of an instruction (30_encoding.md R62). -/
def implicitSource : Instr → GenReg
  | .cpuid => .EAX

/-- The implicit destinations of an instruction (30_encoding.md R62). -/
def implicitDestinations : Instr → List GenReg
  | .cpuid => [.EAX, .EBX, .ECX, .EDX]

end Sys2Proof.Machine
end

