-- ==== Sys2Proof/Config.lean ====
section
/-! DEFINITION. What the particular processor fixes (00_scope.md R6, R7, D25), and the values the spec leaves free. -/

namespace Sys2Proof

/-- `CPUID_OUT_OF_RANGE` of 00_scope.md R6: what CPUID does with an input above the maximum (40_cpuid.md R85, D2). -/
inductive OutOfRange where
  /-- The step is refused, `refuse(cpuid_input_above_max)`. Safe: no claim can be made of such a run. -/
  | refuse
  /-- All four registers get unrelated free values and the machine goes on. Unsafe if a part faults or hangs (D2). -/
  | draw4
  deriving DecidableEq, Repr, Inhabited

/-- The four words CPUID returns for input 2. Byte 0 of `CACHE_EAX` is the repeat count and is 01h in every admitted
configuration (D15, D25), so only its three descriptor bytes are data here.
DEDUCED, safe: log entry 2. -/
structure CacheWords where
  /-- Bytes 3, 2, 1 of `CACHE_EAX`. -/
  eaxDescriptors : BitVec 24
  EBX : Word
  ECX : Word
  EDX : Word
  deriving DecidableEq, Repr, Inhabited

/-- An ADMITTED configuration `CpuidConfig` of 00_scope.md R6 and D25, admitted by its shape: `caches` is present exactly
on a part whose maximum input value is 2. The vendor words are constants, not parameters (R6).
DEDUCED, safe: log entry 2. -/
structure CpuidConfig where
  /-- `VERSION`, returned whole in EAX for input 1 (D5). -/
  version : Word
  /-- `FEATURES`, returned in EDX for input 1; its reserved bits are free bits of this word (D4). -/
  features : Word
  /-- `CACHE_*`, present only when `MAXLEAF = 2`. -/
  caches : Option CacheWords
  /-- `CPUID_OUT_OF_RANGE`. -/
  outOfRange : OutOfRange
  /-- The physical address width under PAE (41_cpuid_information.md R115); no rule in scope uses it. -/
  paeAddressBits : Nat
  deriving DecidableEq, Repr, Inhabited

/-- The four `CACHE_*` words as 00_scope.md R6 lists them, before any check. -/
structure CacheRecord where
  EAX : Word
  EBX : Word
  ECX : Word
  EDX : Word
  deriving DecidableEq, Repr

/-- The configuration record as the table of 00_scope.md R6 lists its parameters, before the check of D25
(`ConfigRecord.admitted` in WellFormed.lean). -/
structure ConfigRecord where
  MAXLEAF : Nat
  VERSION : Word
  FEATURES : Word
  CACHE : Option CacheRecord
  CPUID_OUT_OF_RANGE : OutOfRange
  paeAddressBits : Nat
  deriving DecidableEq, Repr

/-- The part the machine is at reset: any admitted configuration; D1 leaves the processor OPEN, so nothing can be proved
of it. DESIGN CHOICE, safe: log entry 1. -/
opaque Config.part : CpuidConfig

/-- The `n`-th value `draw32()` gives (00_scope.md R11, R12): under no law. DESIGN CHOICE, log entry 4: safe for claims about
one run, unsafe for a claim that compares the reserved values of two runs. -/
opaque Config.draw32 : Nat → Word

end Sys2Proof
end

