-- ==== Sys2Proof/WellFormed.lean ====
section
/-! DEFINITION. The checks on terms: an instruction, and a configuration record as 00_scope.md R6 lists it. -/

namespace Sys2Proof

/-- An instruction is well formed. CPUID has no field that could be out of range (30_encoding.md R62, R63), so every
instruction is. -/
def Instr.wellFormed : Instr → Bool
  | .cpuid => true

/-- The configuration is admitted (92_eei_decisions.md D25, 00_scope.md R7): `MAXLEAF` is 1 or 2, `CACHE_*` is present
exactly when it is 2, and then byte 0 of `CACHE_EAX` is 01h. Any `VERSION` and `FEATURES` is admitted. -/
def ConfigRecord.admitted (r : ConfigRecord) : Bool :=
  match r.CACHE with
  | none => r.MAXLEAF == 1
  | some c => r.MAXLEAF == 2 && c.EAX.setWidth 8 == 0x01#8

end Sys2Proof
end

