-- ==== Sys2Proof/Machine/Identification.lean ====
section
/-! DEFINITION. The identification constants of a part (10_state.md R26) and the named configurations of 00_scope.md R7. -/

namespace Sys2Proof.Machine

/-- `VENDOR_EBX`, "Genu" (40_cpuid.md R82). -/
def vendorEBX : Word := 0x756E6547#32
/-- `VENDOR_EDX`, "ineI" (40_cpuid.md R82). -/
def vendorEDX : Word := 0x49656E69#32
/-- `VENDOR_ECX`, "ntel" (40_cpuid.md R82). -/
def vendorECX : Word := 0x6C65746E#32

/-- `MAXLEAF`: 2 on a part that has the cache words, else 1 (00_scope.md R6, 41_cpuid_information.md R101). -/
def maxLeaf (cfg : CpuidConfig) : Nat := if cfg.caches.isSome then 2 else 1

/-- `CACHE_EAX`: the three descriptor bytes above the repeat count 01h (D15, 41_cpuid_information.md R125). -/
def cacheEax (c : CacheWords) : Word := c.eaxDescriptors ++ 0x01#8

/-- The four cache words in the record form of 00_scope.md R6. -/
def cacheRecord (c : CacheWords) : CacheRecord := { EAX := cacheEax c, EBX := c.EBX, ECX := c.ECX, EDX := c.EDX }

/-- The configuration as the record of 00_scope.md R6. -/
def configRecord (cfg : CpuidConfig) : ConfigRecord where
  MAXLEAF := maxLeaf cfg
  VERSION := cfg.version
  FEATURES := cfg.features
  CACHE := cfg.caches.map cacheRecord
  CPUID_OUT_OF_RANGE := cfg.outOfRange
  paeAddressBits := cfg.paeAddressBits

/-- The version word of 41_cpuid_information.md R103: type, family, model, stepping in bits 13:12, 11:8, 7:4, 3:0, the upper
18 bits under no law. PRESUMED (G1), unsafe for claims that decode fields: log entry 15. -/
def versionWord (upper : BitVec 18) (ptype : BitVec 2) (family model stepping : BitVec 4) : Word :=
  upper ++ ptype ++ family ++ model ++ stepping

/-- The cache words of the first Pentium Pro: 03020101h, 0h, 0h, 06040A42h (41_cpuid_information.md R131). -/
def pproFirstCaches : CacheWords := { eaxDescriptors := 0x030201#24, EBX := 0#32, ECX := 0#32, EDX := 0x06040A42#32 }

/-- `PPRO_FIRST` (00_scope.md R7): the stepping, the feature word and the policy are open; VERSION is 0000061sh under the
layout of R103; 36 address bits under PAE (R115). -/
def pproFirst (stepping : BitVec 4) (features : Word) (policy : OutOfRange) : CpuidConfig where
  version := versionWord 0#18 0b00#2 0b0110#4 0b0001#4 stepping
  features := features
  caches := some pproFirstCaches
  outOfRange := policy
  paeAddressBits := 36

/-- `PPRO_FAMILY` (00_scope.md R7): any Pentium Pro processor. -/
def pproFamily (version features : Word) (caches : CacheWords) (policy : OutOfRange) : CpuidConfig where
  version := version
  features := features
  caches := some caches
  outOfRange := policy
  paeAddressBits := 36

/-- `PENTIUM` (00_scope.md R7). -/
def pentium (version features : Word) (policy : OutOfRange) (paeAddressBits : Nat) : CpuidConfig where
  version := version
  features := features
  caches := none
  outOfRange := policy
  paeAddressBits := paeAddressBits

/-- `I486_LATE` (00_scope.md R7): a later Intel486 version that has CPUID. -/
def i486Late (version features : Word) (policy : OutOfRange) (paeAddressBits : Nat) : CpuidConfig where
  version := version
  features := features
  caches := none
  outOfRange := policy
  paeAddressBits := paeAddressBits

end Sys2Proof.Machine
end

