-- ==== Sys2Proof/Decode.lean ====
section
/-! DEFINITION. The decoder of 30_encoding.md R65, total on two bytes; the encoder of R60; the opcode table's own numbering
of the instruction's bits. -/

namespace Sys2Proof

/-- What the decoder answers (30_encoding.md R65). -/
inductive Verdict where
  /-- The bytes are this instruction. -/
  | instr (i : Instr)
  /-- The source gives the two bytes no meaning; NOT "illegal instruction". -/
  | notInSpec (b0 b1 : Byte)
  deriving DecidableEq, Repr

/-- The decoder looks at exactly the two bytes at `pc` and `pc + 1`, in that order (30_encoding.md R65, 20_memory.md R41); no
prefix is skipped (R66), and it reads nothing else (R71). -/
def decode (b0 b1 : Byte) : Verdict :=
  if b0 = 0x0F#8 ∧ b1 = 0xA2#8 then .instr .cpuid else .notInSpec b0 b1

/-- The bytes of an instruction, lowest address first (30_encoding.md R60, R64). -/
def encode : Instr → List Byte
  | .cpuid => [0x0F#8, 0xA2#8]

/-- Length in bytes (30_encoding.md R61). -/
def instrLength : Instr → Nat
  | .cpuid => 2

/-- The assembler mnemonic, written without operands (30_encoding.md R69). -/
def instrMnemonic : Instr → String
  | .cpuid => "CPUID"

/-- The low `8 * n` bits of `w` as bytes, most significant byte first. -/
def bytesMsbFirst : Nat → Nat → List Byte
  | 0, _ => []
  | n + 1, w => BitVec.ofNat 8 (w / 256 ^ n) :: bytesMsbFirst n w

/-- The bytes, lowest address first, of an instruction whose bits spec/opcode_table.json numbers as `w`: the row is ONE
number, match 0x0FA2, and its "byte_order" says the leftmost byte of the match is at the lowest address (20_memory.md R41).
Zero bytes follow up to the longest instruction, 2 bytes. DEDUCED, safe: log entry 18. -/
def tableBytes (nbits w : Nat) : List Byte :=
  bytesMsbFirst (nbits / 8) w ++ List.replicate (2 - nbits / 8) 0x00#8

/-- The instruction the decoder reads from the bits the opcode table numbers as `w`. -/
def decodeTableWord (nbits w : Nat) : Option Instr :=
  match tableBytes nbits w with
  | b0 :: b1 :: _ =>
    match decode b0 b1 with
    | .instr i => some i
    | .notInSpec _ _ => none
  | _ => none

end Sys2Proof
end

