-- ==== Sys2Proof/Machine/State.lean ====
section
/-! DEFINITION. The state of the machine as plain data: everything the spec names (10_state.md R20 to R34), the state after
reset, and the reasons a step can stop. -/

namespace Sys2Proof.Machine

/-- Why the machine stops with a fault. -/
inductive Fault where
  /-- Raised by `step` when a byte of the two at `pc` (given) has not been placed in the program text. DESIGN CHOICE, log
  entry 10. Safe: the model stops where the chip would read some byte. -/
  | textByteAbsent (pc : Word)
  deriving DecidableEq, Repr

/-- Why a step has no meaning. -/
inductive Refusal where
  /-- Raised by an arm of `exec` whose instruction has no meaning yet (none now). Safe: the model stops. -/
  | notModelled (mnemonic : String)
  /-- Raised by `step` in a state with TF = 1 (60_exceptions.md R163, D10). Safe: the model stops. -/
  | trapFlagSet
  /-- Raised by `step` and by CPUID when `pc > FFFFFFFDh` (10_state.md R23, 40_cpuid.md R88, D7). Safe: the model stops. -/
  | pcAtTopOfAddressSpace
  /-- Raised by `step` when the two bytes at `pc` are not 0Fh, A2h (30_encoding.md R65, D8). Safe: the model stops. -/
  | notInSpec (b0 b1 : Byte)
  /-- Raised by CPUID for an input above `MAXLEAF` on a configuration whose `CPUID_OUT_OF_RANGE` is `refuse` (40_cpuid.md
  R85, D2). Safe: the model stops. -/
  | cpuidInputAboveMax
  deriving DecidableEq, Repr

/-- The four general registers the source names (10_state.md R20). -/
structure GenRegs where
  EAX : Word
  EBX : Word
  ECX : Word
  EDX : Word
  deriving DecidableEq, Repr

/-- The seventeen flags of the Flags table as one record (10_state.md R24), and the reserved bits of EFLAGS (R33, R87) in the
places of R25. Bit 1 reads as 1 and is not stored. PRESUMED (the width of IOPL, the reserved places: R25), safe: log entry 9. -/
structure Flags where
  ID : Bool
  VIP : Bool
  VIF : Bool
  AC : Bool
  VM : Bool
  RF : Bool
  NT : Bool
  IOPL : BitVec 2
  OF : Bool
  DF : Bool
  IF : Bool
  TF : Bool
  SF : Bool
  ZF : Bool
  AF : Bool
  PF : Bool
  CF : Bool
  /-- Reserved bits 31 to 22. -/
  reservedHigh : BitVec 10
  /-- Reserved bit 15. -/
  reserved15 : Bool
  /-- Reserved bit 5. -/
  reserved5 : Bool
  /-- Reserved bit 3. -/
  reserved3 : Bool
  deriving DecidableEq, Repr

/-- The other general and the segment registers (10_state.md R22). PRESUMED, safe: log entry 11. -/
structure OtherRegs where
  ESP : Word
  EBP : Word
  ESI : Word
  EDI : Word
  CS : BitVec 16
  SS : BitVec 16
  DS : BitVec 16
  ES : BitVec 16
  FS : BitVec 16
  GS : BitVec 16
  deriving DecidableEq, Repr

/-- The eight bits of CR4 the feature table names; their positions are not in the source (10_state.md R27, N17). -/
structure Cr4Bits where
  VME : Bool
  PVI : Bool
  DE : Bool
  PSE : Bool
  TSD : Bool
  PAE : Bool
  MCE : Bool
  PGE : Bool
  deriving DecidableEq, Repr

/-- The capabilities the MTRRs' bit fields indicate (10_state.md R29, 41_cpuid_information.md R119), held decoded: the source
gives no layout from which to read them, so they bear no relation to the contents of the registers. DESIGN CHOICE, safe: log
entry 31. -/
structure MtrrCapabilities where
  memoryTypes : List Nat
  variableCount : Nat
  fixedSupported : Bool
  deriving DecidableEq, Repr

/-- The operating modes the spec names (10_state.md R31, 91_not_in_source.md N44). -/
inductive OperatingMode where
  | realAddress
  | protectedMode
  | virtual8086
  deriving DecidableEq, Repr

/-- The state the spec names beside the four registers, the flags and the program counter (10_state.md R22, R27 to R31). No
instruction in scope reads or writes any of it; CPUID leaves it all unchanged (40_cpuid.md R87). A register whose width the
spec does not state is held as a number, a register file whose size it does not state as (number, contents) pairs in which
an unlisted register holds 0. DESIGN CHOICE, safe: log entry 11. The MTRR capabilities and the MCG_CAP bank count are fields
of their own, apart from `mtrrs` and `msrs` (DESIGN CHOICE, safe: log entry 31); `fpu` and `mmx` are two independent files (DESIGN
CHOICE, safe in scope: log entry 32); the time stamp counter stands still (DESIGN CHOICE, unsafe: log entry 34). -/
structure SystemState where
  other : OtherRegs
  CR3 : Nat
  CR4 : Cr4Bits
  DR4 : Nat
  DR5 : Nat
  msrs : List (Nat × Nat)
  /-- The time stamp counter; no step moves it. DESIGN CHOICE, unsafe: log entry 34. -/
  TSC : Nat
  mtrrs : List (Nat × Nat)
  mtrrCapabilities : MtrrCapabilities
  /-- MCG_CAP: how many banks of error-reporting MSRs there are (R121), apart from `msrs`. DESIGN CHOICE, safe: log entry 31. -/
  mcgCapBanks : Nat
  /-- The FPU registers, independent of `mmx`. DESIGN CHOICE, safe in scope: log entry 32. -/
  fpu : List (Nat × Nat)
  /-- The quadword registers of the MMX technology (10_state.md R30), independent of `fpu`. DESIGN CHOICE, safe in scope: log
  entry 32. -/
  mmx : List (Nat × BitVec 64)
  /-- The current privilege level, 0 to 3 (60_exceptions.md R157). -/
  CPL : Fin 4
  mode : OperatingMode
  deriving DecidableEq, Repr

/-- The program text: the bytes placed, by address (20_memory.md R40). An unlisted address has no value. DESIGN CHOICE, safe:
log entry 10. -/
abbrev Memory := List Host.Cell

/-- The entries of `m` have strictly rising addresses, from `lo` on and below 2^32. -/
def Memory.wfFrom : Nat → Memory → Bool
  | _, [] => true
  | lo, (a, _) :: rest => decide (lo ≤ a) && decide (a < 2 ^ 32) && Memory.wfFrom (a + 1) rest

/-- The canonical form of a program text: addresses strictly rising, all 32-bit. -/
def Memory.wf (m : Memory) : Bool := Memory.wfFrom 0 m

/-- The state of the machine. -/
structure State where
  regs : GenRegs
  /-- The address of the first byte of the instruction about to be executed (10_state.md R23). -/
  pc : Word
  flags : Flags
  text : Memory
  /-- The part's identification constants: read-only (10_state.md R26). DESIGN CHOICE, safe: log entry 1. -/
  cfg : CpuidConfig
  system : SystemState
  /-- THE MODEL'S OWN: how many values `draw32()` has given. DESIGN CHOICE, safe: log entry 4. -/
  drawCount : Nat
  deriving DecidableEq, Repr

/-- Every flag and every reserved bit clear: EFLAGS = 00000002h. PRESUMED (the family's), unsafe: log entry 6. -/
def Flags.reset : Flags where
  ID := false
  VIP := false
  VIF := false
  AC := false
  VM := false
  RF := false
  NT := false
  IOPL := 0#2
  OF := false
  DF := false
  IF := false
  TF := false
  SF := false
  ZF := false
  AF := false
  PF := false
  CF := false
  reservedHigh := 0#10
  reserved15 := false
  reserved5 := false
  reserved3 := false

/-- PRESUMED (CPL, mode, `other`: the family's, log entry 6) and DESIGN CHOICE (the rest zero, log entry 11), unsafe. -/
def SystemState.reset : SystemState where
  other := { ESP := 0#32, EBP := 0#32, ESI := 0#32, EDI := 0#32, CS := 0xF000#16, SS := 0#16, DS := 0#16, ES := 0#16,
             FS := 0#16, GS := 0#16 }
  CR3 := 0
  CR4 := { VME := false, PVI := false, DE := false, PSE := false, TSD := false, PAE := false, MCE := false, PGE := false }
  DR4 := 0
  DR5 := 0
  msrs := []
  TSC := 0
  mtrrs := []
  mtrrCapabilities := { memoryTypes := [], variableCount := 0, fixedSupported := false }
  mcgCapBanks := 0
  fpu := []
  mmx := []
  CPL := 0
  mode := .realAddress

/-- The machine right after reset. The source gives no reset value at all (10_state.md R33, 70_reset_and_hazards.md R180): the
register values are the family's (PRESUMED, unsafe, log entry 6; EDX by R180), the text is empty, and the part is open but
for its policy on inputs above the maximum (DESIGN CHOICE, unsafe, log entry 3). -/
def State.reset : State where
  regs := { EAX := 0#32, EBX := 0#32, ECX := 0#32, EDX := Config.part.version }
  pc := 0xFFFFFFF0#32
  flags := Flags.reset
  text := []
  cfg := { Config.part with outOfRange := .draw4 }
  system := SystemState.reset
  drawCount := 0

end Sys2Proof.Machine
end

