-- ==== Sys2Proof/Machine/Ops.lean ====
section
/-! DEFINITION. The named operations over registers, the program counter, the program text and the free values
(00_scope.md R11). The spec describes no exception entry and no return (60_exceptions.md R150, R154, R155), so there is no
operation that takes an exception. -/

namespace Sys2Proof.Machine

/-- `x[r]` (00_scope.md R11). -/
def State.read (s : State) : GenReg → Word
  | .EAX => s.regs.EAX
  | .EBX => s.regs.EBX
  | .ECX => s.regs.ECX
  | .EDX => s.regs.EDX

/-- `x[r] <- v`: all 32 bits are replaced (00_scope.md R11). -/
def State.write (s : State) (r : GenReg) (v : Word) : State :=
  match r with
  | .EAX => { s with regs := { s.regs with EAX := v } }
  | .EBX => { s with regs := { s.regs with EBX := v } }
  | .ECX => { s with regs := { s.regs with ECX := v } }
  | .EDX => { s with regs := { s.regs with EDX := v } }

/-- AL, BL, CL, DL: byte 0 of the register, an alias and no state of its own (10_state.md R21, C1). -/
def State.readLow (s : State) (r : GenReg) : Byte := byteOf 0 (s.read r)

/-- `x[r] <- draw32()`: a free value, a fresh one at every draw (00_scope.md R11, R12).
DESIGN CHOICE, safe: log entry 4. -/
def State.drawInto (s : State) (r : GenReg) : State :=
  { s.write r (Config.draw32 s.drawCount) with drawCount := s.drawCount + 1 }

/-- `pc > FFFFFFFDh`: the two bytes of the instruction or the address after them do not fit below 2^32 (10_state.md R23). -/
def State.pcAtTop (s : State) : Bool := decide (0xFFFFFFFD#32 < s.pc)

/-- `pc <- pc + n` with the length of the instruction (40_cpuid.md R88). -/
def State.advance (s : State) (i : Instr) : State := { s with pc := s.pc + BitVec.ofNat 32 (instrLength i) }

/-- The byte at an address; none where nothing was placed (20_memory.md R40, log entry 10). -/
def Memory.read : Memory → Nat → Option Byte
  | [], _ => none
  | (x, c) :: rest, a => if a = x then some c else Memory.read rest a

/-- `m` with byte `b` at address `a`, in canonical form. -/
def Memory.write : Memory → Nat → Byte → Memory
  | [], a, b => [(a, b)]
  | (x, c) :: rest, a, b =>
    if a < x then (a, b) :: (x, c) :: rest
    else if a = x then (a, b) :: rest
    else (x, c) :: Memory.write rest a b

/-- `MemRead(a, n)`: the bytes at `a` to `a + n - 1` (00_scope.md R11); none where one of them was not placed. -/
def Memory.readBytes (m : Memory) : Nat → Nat → Option (List Byte)
  | _, 0 => some []
  | a, n + 1 =>
    match Memory.read m a with
    | none => none
    | some b => (Memory.readBytes m (a + 1) n).map (b :: ·)

/-- The bytes placed at `a`, `a + 1`, … (how text comes to be in memory; 00_scope.md R11 `MemWrite`, used by no rule in scope);
none where one would lie at 2^32 or above. -/
def Memory.writeBytes : Memory → Nat → List Byte → Option Memory
  | m, _, [] => some m
  | m, a, b :: bs => if a < 2 ^ 32 then Memory.writeBytes (Memory.write m a b) (a + 1) bs else none

/-- `MemWrite(a, n, v)` (00_scope.md R11) in the data byte order of 20_memory.md R42; no rule in scope uses it. -/
def Memory.writeData (m : Memory) (a : Word) (n : Nat) (v : Word) : Option Memory :=
  Memory.writeBytes m a.toNat (leBytes n v)

/-- Instruction fetch: the bytes at `pc` and `pc + 1` (20_memory.md R41, R44). -/
def fetchPair (s : State) : Except Fault (Byte × Byte) :=
  match Memory.readBytes s.text s.pc.toNat 2 with
  | some [b0, b1] => .ok (b0, b1)
  | _ => .error (.textByteAbsent s.pc)

end Sys2Proof.Machine
end

