-- ==== Sys2Proof/Machine/Cpuid.lean ====
section
/-! DEFINITION. The meaning of CPUID (40_cpuid.md R80 to R91). -/

namespace Sys2Proof.Machine

/-- The arms of the `case` of 40_cpuid.md R80. -/
inductive CpuidLeaf where
  | vendor
  | version
  | cache (c : CacheWords)
  | aboveMax
  deriving DecidableEq, Repr

/-- The selection on the whole of EAX as an unsigned number (40_cpuid.md R81, D19). -/
def selectLeaf (cfg : CpuidConfig) (input : Word) : CpuidLeaf :=
  if input = 0x00000000#32 then .vendor
  else if input = 0x00000001#32 then .version
  else if input = 0x00000002#32 then
    match cfg.caches with
    | some c => .cache c
    | none => .aboveMax
  else .aboveMax

/-- Input 0 (40_cpuid.md R82). -/
def returnVendor (s : State) : State :=
  (((s.write .EAX (BitVec.ofNat 32 (maxLeaf s.cfg))).write .EBX vendorEBX).write .EDX vendorEDX).write .ECX vendorECX

/-- Input 1 (40_cpuid.md R83): EBX and ECX are reserved, each a free value (D3). -/
def returnVersion (s : State) : State :=
  (((s.write .EAX s.cfg.version).drawInto .EBX).drawInto .ECX).write .EDX s.cfg.features

/-- Input 2 (40_cpuid.md R84). -/
def returnCache (s : State) (c : CacheWords) : State :=
  (((s.write .EAX (cacheEax c)).write .EBX c.EBX).write .ECX c.ECX).write .EDX c.EDX

/-- An input above the maximum under `draw4` (40_cpuid.md R85): four unrelated free values. -/
def returnDraws (s : State) : State :=
  (((s.drawInto .EAX).drawInto .EBX).drawInto .ECX).drawInto .EDX

/-- CPUID: the input is read before any register is written (40_cpuid.md R81); no flag is read or written (R86) and no mode
looked at (R89); nothing but EAX, EBX, ECX, EDX and `pc` changes (R87); the step is one and atomic (R91) and, in the sequential
model, serializing by itself (20_memory.md R47, R48). -/
def execCpuid (s : State) : Host.Outcome State Fault Refusal :=
  if s.pcAtTop then .refused .pcAtTopOfAddressSpace
  else
    match selectLeaf s.cfg (s.read .EAX) with
    | .vendor => .next ((returnVendor s).advance .cpuid)
    | .version => .next ((returnVersion s).advance .cpuid)
    | .cache c => .next ((returnCache s c).advance .cpuid)
    | .aboveMax =>
      match s.cfg.outOfRange with
      | .refuse => .refused .cpuidInputAboveMax
      | .draw4 => .next ((returnDraws s).advance .cpuid)

end Sys2Proof.Machine
end

