-- ==== Sys2Proof/Machine/Step.lean ====
section
/-! DEFINITION. One step of the machine (60_exceptions.md R163), and how a word of the opcode table is placed where the step
fetches. -/

namespace Sys2Proof.Machine

/-- The step of 60_exceptions.md R163: the checks in the order of R153 (C7), then the decoded instruction's meaning. -/
def step (s : State) : Host.Outcome State Fault Refusal :=
  if s.flags.TF then .refused .trapFlagSet
  else if s.pcAtTop then .refused .pcAtTopOfAddressSpace
  else
    match fetchPair s with
    | .error f => .fault f
    | .ok (b0, b1) =>
      match decode b0 b1 with
      | .notInSpec c0 c1 => .refused (.notInSpec c0 c1)
      | .instr i => exec i s

/-- `s` with the instruction that the opcode table numbers as `w` stored at `pc`. It stands for the load of a program from
outside the machine (10_state.md R34, 70_reset_and_hazards.md R180). DESIGN CHOICE, safe: log entry 20. -/
def State.withFetchWord (s : State) (nbits w : Nat) : State :=
  { s with text := (Memory.writeBytes s.text s.pc.toNat (tableBytes nbits w)).getD s.text }

end Sys2Proof.Machine
end

