-- ==== Sys2Proof/Machine/Flags.lean ====
section
/-! DEFINITION. The flags. No instruction in scope computes a flag (40_cpuid.md R86); what the spec gives is the layout of
the EFLAGS word (10_state.md R25), as a view of the record and back. PRESUMED, unsafe for claims about a flags WORD: log entry 9. -/

namespace Sys2Proof.Machine

/-- The flag, or the reserved bit, at each bit of EFLAGS; bit 1 reads as 1 (10_state.md R25). -/
def Flags.bit (f : Flags) : Nat → Bool
  | 0 => f.CF
  | 1 => true
  | 2 => f.PF
  | 3 => f.reserved3
  | 4 => f.AF
  | 5 => f.reserved5
  | 6 => f.ZF
  | 7 => f.SF
  | 8 => f.TF
  | 9 => f.IF
  | 10 => f.DF
  | 11 => f.OF
  | 12 => f.IOPL.getLsbD 0
  | 13 => f.IOPL.getLsbD 1
  | 14 => f.NT
  | 15 => f.reserved15
  | 16 => f.RF
  | 17 => f.VM
  | 18 => f.AC
  | 19 => f.VIF
  | 20 => f.VIP
  | 21 => f.ID
  | n + 22 => f.reservedHigh.getLsbD n

/-- EFLAGS as a 32-bit word (10_state.md R25). -/
def Flags.toWord (f : Flags) : Word := BitVec.ofFnLE (fun i : Fin 32 => f.bit i.val)

/-- The record a 32-bit EFLAGS word stands for; its bit 1 is not stored (10_state.md R25). -/
def Flags.ofWord (w : Word) : Flags where
  CF := w.getLsbD 0
  PF := w.getLsbD 2
  reserved3 := w.getLsbD 3
  AF := w.getLsbD 4
  reserved5 := w.getLsbD 5
  ZF := w.getLsbD 6
  SF := w.getLsbD 7
  TF := w.getLsbD 8
  IF := w.getLsbD 9
  DF := w.getLsbD 10
  OF := w.getLsbD 11
  IOPL := w.extractLsb' 12 2
  NT := w.getLsbD 14
  reserved15 := w.getLsbD 15
  RF := w.getLsbD 16
  VM := w.getLsbD 17
  AC := w.getLsbD 18
  VIF := w.getLsbD 19
  VIP := w.getLsbD 20
  ID := w.getLsbD 21
  reservedHigh := w.extractLsb' 22 10

end Sys2Proof.Machine
end

