-- ==== Sys2Proof/Machine/Information.lean ====
section
/-! DEFINITION. What the values CPUID returns mean, field by field (41_cpuid_information.md R100 to R132). Pure functions of
the returned words: none of them changes state. -/

namespace Sys2Proof.Machine

/-! ### Input 0: the vendor string -/

/-- The four characters held in a register, first character in byte 0 (00_scope.md R10). -/
def regChars (v : Word) : List Byte := [byteOf 0 v, byteOf 1 v, byteOf 2 v, byteOf 3 v]

/-- The twelve characters in the register order EBX, EDX, ECX (41_cpuid_information.md R100, C6). -/
def vendorChars (ebx edx ecx : Word) : List Byte := regChars ebx ++ regChars edx ++ regChars ecx

/-- "GenuineIntel", in the character codes of 41_cpuid_information.md R100. -/
def genuineIntel : List Byte :=
  [0x47#8, 0x65#8, 0x6E#8, 0x75#8, 0x69#8, 0x6E#8, 0x65#8, 0x49#8, 0x6E#8, 0x74#8, 0x65#8, 0x6C#8]

/-- The check software makes before it interprets the feature flags (70_reset_and_hazards.md R183). -/
def isIntel (ebx edx ecx : Word) : Bool := vendorChars ebx edx ecx == genuineIntel

/-! ### Input 1, EAX: version information. PRESUMED layout (R103, G1), unsafe for decoded fields: log entry 15. -/

/-- Stepping ID, bits 3:0 (41_cpuid_information.md R103). -/
def stepping (v : Word) : BitVec 4 := fieldOf 3 0 v
/-- Model, bits 7:4 (41_cpuid_information.md R103). -/
def model (v : Word) : BitVec 4 := fieldOf 7 4 v
/-- Family, bits 11:8 (41_cpuid_information.md R103). -/
def family (v : Word) : BitVec 4 := fieldOf 11 8 v
/-- Processor type code, bits 13:12 (41_cpuid_information.md R103). -/
def ptype (v : Word) : BitVec 2 := fieldOf 13 12 v

/-- The processor types (41_cpuid_information.md R105). -/
inductive ProcessorType where
  | originalOEM
  | intelOverDrive
  | dualProcessor
  /-- "Intel reserved." -/
  | reserved
  deriving DecidableEq, Repr

/-- The processor type a code stands for (41_cpuid_information.md R105, R106). -/
def processorType (code : BitVec 2) : ProcessorType :=
  if code = 0b00#2 then .originalOEM
  else if code = 0b01#2 then .intelOverDrive
  else if code = 0b10#2 then .dualProcessor
  else .reserved

/-! ### Input 1, EDX: feature flags -/

/-- The fifteen defined feature flags (41_cpuid_information.md R109 to R123). -/
inductive Feature where
  | FPU
  | VME
  | DE
  | PSE
  | TSC
  | MSR
  | PAE
  | MCE
  | CX8
  | APIC
  | MTRR
  | PGE
  | MCA
  | CMOV
  | MMX
  deriving DecidableEq, Repr

/-- The bit of the feature word at which a flag stands (41_cpuid_information.md R108). -/
def featureBit : Feature → Nat
  | .FPU => 0
  | .VME => 1
  | .DE => 2
  | .PSE => 3
  | .TSC => 4
  | .MSR => 5
  | .PAE => 6
  | .MCE => 7
  | .CX8 => 8
  | .APIC => 9
  | .MTRR => 12
  | .PGE => 13
  | .MCA => 14
  | .CMOV => 15
  | .MMX => 23

/-- All defined flags, by bit. -/
def allFeatures : List Feature :=
  [.FPU, .VME, .DE, .PSE, .TSC, .MSR, .PAE, .MCE, .CX8, .APIC, .MTRR, .PGE, .MCA, .CMOV, .MMX]

/-- The flag at a bit of the feature word; none where the table lists "Reserved" (41_cpuid_information.md R124). -/
def featureAt (bit : Nat) : Option Feature := allFeatures.find? (fun f => featureBit f == bit)

/-- "A feature flag set to 1 indicates the corresponding feature is supported" (41_cpuid_information.md R108). -/
def hasFeature (features : Word) (f : Feature) : Bool := bitOf (featureBit f) features

/-- The flags a feature word reports; its reserved bits are ignored (41_cpuid_information.md R124). -/
def featuresOf (features : Word) : List Feature := allFeatures.filter (hasFeature features)

/-- The mask of the seventeen reserved positions (41_cpuid_information.md R124). -/
def reservedFeatureMask : Word := 0xFF7F0C00#32
/-- The mask of the fifteen defined positions (41_cpuid_information.md R124). -/
def definedFeatureMask : Word := 0x0080F3FF#32

/-- What the feature table says a flag reports: instructions, control bits, structures (41_cpuid_information.md R109 to R123). -/
inductive Facility where
  | intel387Instructions
  | cr4VME
  | cr4PVI
  | tssSoftwareIndirectionBitmap
  | eflagsVIF
  | eflagsVIP
  | ioBreakpoints
  | cr4DE
  | dr4Dr5Trapping
  | pages4MByte
  | cr4PSE
  | pdeModifiedBit
  | rdtsc
  | cr4TSD
  | rdmsr
  | wrmsr
  | physicalAddressesAbove32Bits
  | extendedPageTableEntries
  | extraTranslationLevel
  | pages2MByte
  | cr4PAE
  | cr4MCE
  | cmpxchg8b
  | apicAvailable
  | mtrrs
  | cr4PGE
  | pageGlobalBit
  | mcgCap
  | cmovcc
  | fcmovcc
  | fcomi
  | mmxInstructions
  deriving DecidableEq, Repr

/-- The flags whose conjunction reports a facility (41_cpuid_information.md R109 to R123; FCMOVcc and FCOMI by R122). -/
def facilityFlags : Facility → List Feature
  | .intel387Instructions => [.FPU]
  | .cr4VME => [.VME]
  | .cr4PVI => [.VME]
  | .tssSoftwareIndirectionBitmap => [.VME]
  | .eflagsVIF => [.VME]
  | .eflagsVIP => [.VME]
  | .ioBreakpoints => [.DE]
  | .cr4DE => [.DE]
  | .dr4Dr5Trapping => [.DE]
  | .pages4MByte => [.PSE]
  | .cr4PSE => [.PSE]
  | .pdeModifiedBit => [.PSE]
  | .rdtsc => [.TSC]
  | .cr4TSD => [.TSC]
  | .rdmsr => [.MSR]
  | .wrmsr => [.MSR]
  | .physicalAddressesAbove32Bits => [.PAE]
  | .extendedPageTableEntries => [.PAE]
  | .extraTranslationLevel => [.PAE]
  | .pages2MByte => [.PAE]
  | .cr4PAE => [.PAE]
  | .cr4MCE => [.MCE]
  | .cmpxchg8b => [.CX8]
  | .apicAvailable => [.APIC]
  | .mtrrs => [.MTRR]
  | .cr4PGE => [.PGE]
  | .pageGlobalBit => [.PGE]
  | .mcgCap => [.MCA]
  | .cmovcc => [.CMOV]
  | .fcmovcc => [.CMOV, .FPU]
  | .fcomi => [.CMOV, .FPU]
  | .mmxInstructions => [.MMX]

/-- The feature word reports the facility; false means only that the source does not promise it (R108). -/
def reports (features : Word) (x : Facility) : Bool := (facilityFlags x).all (hasFeature features)

/-! ### Input 2: cache and TLB descriptors -/

/-- How many times CPUID must be executed with input 2: AL (41_cpuid_information.md R125). Bit 31 of EAX is not looked at: whether
AL is still a count where it is set is not in the source (R126). DESIGN CHOICE, unsafe for a reserved EAX: log entry 33. -/
def repeatCount (eax : Word) : Byte := byteOf 0 eax

/-- Bit 31 clear: the register holds valid information (41_cpuid_information.md R126). -/
def registerValid (v : Word) : Bool := !bitOf 31 v

/-- The descriptor bytes a register reports (41_cpuid_information.md R127, R130). -/
def descriptors (v : Word) (isEax : Bool) : List Byte :=
  if bitOf 31 v then []
  else if isEax then [byteOf 1 v, byteOf 2 v, byteOf 3 v]
  else [byteOf 0 v, byteOf 1 v, byteOf 2 v, byteOf 3 v]

/-- All descriptors of four returned words (41_cpuid_information.md R130). -/
def descriptorsOfWords (eax ebx ecx edx : Word) : List Byte :=
  descriptors eax true ++ descriptors ebx false ++ descriptors ecx false ++ descriptors edx false

/-- `all_descriptors(cfg)` (41_cpuid_information.md R130). On a part without the cache words (00_scope.md R6) the spec gives it no
value, and here it is the empty list. DESIGN CHOICE, unsafe for a claim about such a part's caches: log entry 35. -/
def allDescriptors (cfg : CpuidConfig) : List Byte :=
  match cfg.caches with
  | none => []
  | some c => descriptorsOfWords (cacheEax c) c.EBX c.ECX c.EDX

/-- The kinds of cache (41_cpuid_information.md R128). -/
inductive CacheKind where
  | instruction
  | data
  | unified
  deriving DecidableEq, Repr

/-- The kinds of TLB (41_cpuid_information.md R128). -/
inductive TlbKind where
  | instruction
  | data
  deriving DecidableEq, Repr

/-- The page sizes a TLB descriptor names (41_cpuid_information.md R128). -/
inductive PageSize where
  | kByte4
  | mByte4
  deriving DecidableEq, Repr

/-- What a descriptor describes (41_cpuid_information.md R128, R129). -/
inductive Descriptor where
  /-- The null descriptor: nothing. -/
  | null
  | tlb (kind : TlbKind) (pages : PageSize) (ways entries : Nat)
  | cache (kind : CacheKind) (kBytes ways lineBytes : Nat)
  /-- A value without a row in the table: no meaning, NOT "no cache". -/
  | unknown (value : Byte)
  deriving DecidableEq, Repr

/-- The rows of the descriptor table but for the null row (41_cpuid_information.md R128). -/
def descriptorTable : List (Byte × Descriptor) :=
  [(0x01#8, .tlb .instruction .kByte4 4 32), (0x02#8, .tlb .instruction .mByte4 4 4),
   (0x03#8, .tlb .data .kByte4 4 64), (0x04#8, .tlb .data .mByte4 4 8),
   (0x06#8, .cache .instruction 8 4 32), (0x08#8, .cache .instruction 16 4 32),
   (0x0A#8, .cache .data 8 2 32), (0x0C#8, .cache .data 16 2 32),
   (0x41#8, .cache .unified 128 4 32), (0x42#8, .cache .unified 256 4 32),
   (0x43#8, .cache .unified 512 4 32), (0x44#8, .cache .unified 1024 4 32)]

/-- The row for a descriptor value in a table, `unknown` where it has none (41_cpuid_information.md R129). -/
def lookupDescriptor (v : Byte) : List (Byte × Descriptor) → Descriptor
  | [] => .unknown v
  | (x, d) :: rest => if v = x then d else lookupDescriptor v rest

/-- What a descriptor value describes (41_cpuid_information.md R128, R129). -/
def describe (v : Byte) : Descriptor := lookupDescriptor v ((0x00#8, .null) :: descriptorTable)

/-- Two lists report the same caches and TLBs: equal but for order and for null descriptors, which describe nothing
(41_cpuid_information.md R130, R132). PRESUMED (G8), unsafe for a part whose descriptor positions carry meaning: log entry 30. -/
def sameInventory (a b : List Byte) : Bool := (a.filter (· != 0x00#8)).isPerm (b.filter (· != 0x00#8))

/-! ### The row of the Operands/Bytes/Clocks table -/

/-- A row of the Operands/Bytes/Clocks table (40_cpuid.md R92, 70_reset_and_hazards.md R188). -/
structure TimingRow where
  bytes : Nat
  /-- Clock count on the Pentium processor only. -/
  clocks : Nat
  /-- "NP": not pairable (G11). -/
  pairable : Bool
  deriving DecidableEq, Repr

/-- Timing as data: no rule of the model depends on it (D21). -/
def timingRow : Instr → TimingRow
  | .cpuid => { bytes := 2, clocks := 14, pairable := false }

end Sys2Proof.Machine
end

