-- ==== Sys2Proof/Safety.lean ====
section
/-! DEFINITION. What claims call a good state and a good step (60_exceptions.md R163). -/

namespace Sys2Proof.Machine

/-- The launch premise TF = 0 (60_exceptions.md R163) together with the canonical form of the program text. -/
def State.Inv (s : State) : Prop := s.flags.TF = false ∧ Memory.wf s.text = true

/-- `no_event_delivered`, what the model can show of it (60_exceptions.md R163): no event transferred control away, so the
next instruction is the one that follows the two bytes at `pc`. -/
def noEventDelivered (before after : State) : Prop := after.pc.toNat = before.pc.toNat + 2

/-- Everything that no instruction in scope changes (40_cpuid.md R86, R87). That `system` is the same includes a time stamp
counter that stands still from step to step, on which the source is silent (60_exceptions.md R158, N34).
DESIGN CHOICE, unsafe for the counter: log entry 34. -/
structure SameFixedState (s t : State) : Prop where
  flags : t.flags = s.flags
  text : t.text = s.text
  cfg : t.cfg = s.cfg
  system : t.system = s.system

/-- The outcome is no fault. -/
def notFault : Host.Outcome State Fault Refusal → Prop
  | .next _ => True
  | .fault _ => False
  | .refused _ => True

end Sys2Proof.Machine
end

