-- ==== Sys2Proof/Certificates/Slice0/Obligations.lean ====
section
/-! DEFINITION. The statements for the provers, each from a numbered rule of spec/ or from the sections it names. -/

open Sys2Proof Sys2Proof.Machine

/-! ### Encoding and decoding -/

/-- 30_encoding.md R60, R61, R64: the two bytes, their bits read with byte 0 on the left, the length, and one row in all. -/
def Obligations.CpuidEncodingIsTwoBytes : Prop :=
  encode .cpuid = [0b00001111#8, 0b10100010#8] ∧
  (0b00001111#8 ++ 0b10100010#8 : BitVec 16) = 0b0000111110100010#16 ∧
  instrLength .cpuid = 2 ∧
  decode 0x0F#8 0xA2#8 = .instr .cpuid ∧
  ∀ i : Instr, i = .cpuid

/-- 30_encoding.md section 4, D8: every other byte pair is `not_in_spec`, and the verdict names the pair. -/
def Obligations.EveryOtherBytePairIsNotInSpec : Prop :=
  ∀ b0 b1 : Byte, ¬ (b0 = 0x0F#8 ∧ b1 = 0xA2#8) → decode b0 b1 = .notInSpec b0 b1

/-- 95_test_vectors.md section 2.1: the words of the decoder's table, the prefixed forms among them. -/
def Obligations.DecoderTableWords : Prop :=
  decode 0x0F#8 0xA2#8 = .instr .cpuid ∧
  decode 0xA2#8 0x0F#8 = .notInSpec 0xA2#8 0x0F#8 ∧
  decode 0x0F#8 0xA3#8 = .notInSpec 0x0F#8 0xA3#8 ∧
  decode 0x0F#8 0x22#8 = .notInSpec 0x0F#8 0x22#8 ∧
  decode 0x0E#8 0xA2#8 = .notInSpec 0x0E#8 0xA2#8 ∧
  decode 0xF0#8 0x0F#8 = .notInSpec 0xF0#8 0x0F#8 ∧
  decode 0x66#8 0x0F#8 = .notInSpec 0x66#8 0x0F#8 ∧
  decode 0x90#8 0x90#8 = .notInSpec 0x90#8 0x90#8

/-- 30_encoding.md section 3 (match 0FA2h, mask FFFFh) in the table's own numbering (log entry 18): of all 16-bit numbers the
decoder reads an instruction from one only. -/
def Obligations.OnlyTheTableMatchDecodes : Prop :=
  ∀ w : Nat, w < 2 ^ 16 → (decodeTableWord 16 w = some .cpuid ↔ w = 0x0FA2)

/-- 30_encoding.md sections 1 and 4, 20_memory.md section 2, 60_exceptions.md section 12: for EVERY instruction, its encoding
stored at `pc` (in whatever text) is what the step fetches, decodes and runs, and no other pair of bytes decodes to it. -/
def Obligations.StoredEncodingIsWhatStepRuns : Prop :=
  ∀ (i : Instr) (s : State) (m : Memory),
    i.wellFormed = true →
    s.flags.TF = false → s.pc.toNat ≤ 0xFFFFFFFD →
    Memory.writeBytes s.text s.pc.toNat (encode i) = some m →
    step { s with text := m } = exec i { s with text := m } ∧
    ∀ b0 b1 : Byte, decode b0 b1 = .instr i → encode i = [b0, b1]

/-! ### The step -/

/-- 60_exceptions.md section 12: bytes at `pc` that decode to a well-formed instruction are run by its meaning; the step adds
nothing around it. -/
def Obligations.StepRunsTheDecodedInstruction : Prop :=
  ∀ (s : State) (b0 b1 : Byte) (i : Instr),
    s.flags.TF = false → s.pc.toNat ≤ 0xFFFFFFFD →
    Memory.readBytes s.text s.pc.toNat 2 = some [b0, b1] →
    decode b0 b1 = .instr i → i.wellFormed = true →
    step s = exec i s

/-- 60_exceptions.md sections 3 and 12 (D10, D7, D8): the refusals of the step in their order, and the model's own fault (log
entry 10) for a byte the text does not hold. -/
def Obligations.StepChecksInOrder : Prop :=
  ∀ s : State,
    (s.flags.TF = true → step s = .refused .trapFlagSet) ∧
    (s.flags.TF = false → 0xFFFFFFFD < s.pc.toNat → step s = .refused .pcAtTopOfAddressSpace) ∧
    (s.flags.TF = false → s.pc.toNat ≤ 0xFFFFFFFD → Memory.readBytes s.text s.pc.toNat 2 = none →
      step s = .fault (.textByteAbsent s.pc)) ∧
    (s.flags.TF = false → s.pc.toNat ≤ 0xFFFFFFFD →
      ∀ b0 b1 : Byte, Memory.readBytes s.text s.pc.toNat 2 = some [b0, b1] → ¬ (b0 = 0x0F#8 ∧ b1 = 0xA2#8) →
        step s = .refused (.notInSpec b0 b1))

/-- The model's choice, log entries 5 and 10 (with D9, 60_exceptions.md section 1: no exception): the one fault of a step is a byte
the text does not hold. The spec's own fault, of a CPUID that reads a register nothing has written (D14), does not exist here. -/
def Obligations.StepFaultsOnlyOnAbsentText : Prop :=
  ∀ (s : State) (f : Fault), step s = .fault f →
    f = .textByteAbsent s.pc ∧
    (Memory.read s.text s.pc.toNat = none ∨ Memory.read s.text (s.pc.toNat + 1) = none)

/-! ### CPUID: its results -/

/-- 40_cpuid.md section 2, input value 0: the maximum in EAX, 2 for the Pentium Pro and 1 for the Pentium and the later Intel486, and
the vendor words, the same for every configuration. That all else is unchanged is D6 (log entry 22), that pc advances by 2
below the top is D7 (log entry 14). -/
def Obligations.CpuidInputZeroReturnsVendor : Prop :=
  (∀ s : State, s.pc.toNat ≤ 0xFFFFFFFD → s.regs.EAX = 0x00000000#32 →
    exec .cpuid s = .next
      { s with
        regs := { EAX := BitVec.ofNat 32 (maxLeaf s.cfg), EBX := 0x756E6547#32, ECX := 0x6C65746E#32, EDX := 0x49656E69#32 }
        pc := s.pc + 2#32 }) ∧
  (∀ (stepping : BitVec 4) (features : Word) (p : OutOfRange), maxLeaf (pproFirst stepping features p) = 2) ∧
  (∀ (v f : Word) (c : CacheWords) (p : OutOfRange), maxLeaf (pproFamily v f c p) = 2) ∧
  (∀ (v f : Word) (p : OutOfRange) (n : Nat), maxLeaf (pentium v f p n) = 1 ∧ maxLeaf (i486Late v f p n) = 1)

/-- 40_cpuid.md section 2, input value 1, D3: version in EAX, features in EDX; EBX and ECX are reserved and get free values (log
entry 4), so nothing may be concluded of them. -/
def Obligations.CpuidInputOneReturnsVersionAndFeatures : Prop :=
  ∀ s : State, s.pc.toNat ≤ 0xFFFFFFFD → s.regs.EAX = 0x00000001#32 →
    exec .cpuid s = .next
      { s with
        regs := { EAX := s.cfg.version, EBX := Config.draw32 s.drawCount, ECX := Config.draw32 (s.drawCount + 1), EDX := s.cfg.features }
        pc := s.pc + 2#32
        drawCount := s.drawCount + 2 }

/-- 40_cpuid.md section 2, input value 2, D15: the four cache words, with 01h in AL. -/
def Obligations.CpuidInputTwoReturnsCacheWords : Prop :=
  ∀ (s : State) (c : CacheWords), s.pc.toNat ≤ 0xFFFFFFFD → s.regs.EAX = 0x00000002#32 → s.cfg.caches = some c →
    exec .cpuid s = .next
      { s with
        regs := { EAX := c.eaxDescriptors ++ 0x01#8, EBX := c.EBX, ECX := c.ECX, EDX := c.EDX }
        pc := s.pc + 2#32 }

/-- 40_cpuid.md section 2, input above the maximum, D2: under the policy `refuse` the step is refused, under `draw4` all four
registers get free values (log entries 3 and 4) and the machine goes on. The whole of EAX is compared, not AL (D19). -/
def Obligations.CpuidInputAboveMaximum : Prop :=
  ∀ s : State, s.pc.toNat ≤ 0xFFFFFFFD → maxLeaf s.cfg < s.regs.EAX.toNat →
    (s.cfg.outOfRange = .refuse → exec .cpuid s = .refused .cpuidInputAboveMax) ∧
    (s.cfg.outOfRange = .draw4 →
      exec .cpuid s = .next
        { s with
          regs := { EAX := Config.draw32 s.drawCount, EBX := Config.draw32 (s.drawCount + 1), ECX := Config.draw32 (s.drawCount + 2), EDX := Config.draw32 (s.drawCount + 3) }
          pc := s.pc + 2#32
          drawCount := s.drawCount + 4 })

/-- 40_cpuid.md section 2 (program counter), D7: at the top of the address space CPUID is refused, whatever the input. -/
def Obligations.CpuidRefusedAtTopOfAddressSpace : Prop :=
  ∀ s : State, 0xFFFFFFFD < s.pc.toNat → exec .cpuid s = .refused .pcAtTopOfAddressSpace

/-- 40_cpuid.md section 3: CPUID answers a next state exactly where the pc is below the top and the input is recognised or the
policy on unrecognised inputs is `draw4`. -/
def Obligations.CpuidCompletesExactlyWhen : Prop :=
  ∀ s : State,
    (∃ t, exec .cpuid s = .next t) ↔
    (s.pc.toNat ≤ 0xFFFFFFFD ∧ (s.regs.EAX.toNat ≤ maxLeaf s.cfg ∨ s.cfg.outOfRange = .draw4))

/-- 40_cpuid.md section 2 (exceptions), D9: CPUID raises no exception, and is refused for the two named reasons only. That it never
faults is the model's choice, log entry 5: the spec's D14 faults a CPUID whose EAX nothing has written. -/
def Obligations.CpuidStopsOnlyByTwoRefusals : Prop :=
  ∀ s : State,
    (∀ f : Fault, exec .cpuid s ≠ .fault f) ∧
    (∀ r : Refusal, exec .cpuid s = .refused r →
      (r = .pcAtTopOfAddressSpace ∧ 0xFFFFFFFD < s.pc.toNat) ∨
      (r = .cpuidInputAboveMax ∧ maxLeaf s.cfg < s.regs.EAX.toNat ∧ s.cfg.outOfRange = .refuse))

/-! ### CPUID: what it leaves unchanged -/

/-- 40_cpuid.md section 2 (flags): each of the seventeen flags is unaffected, for every input that has a meaning, and none is read.
That the next state is the same under other flags is more than that in two ways, both the model's choice: the reserved values
drawn by the two executions are equal (log entry 4, unsafe between runs), and the reserved bits of EFLAGS are carried over
(D6, log entry 22). -/
def Obligations.CpuidLeavesEveryFlag : Prop :=
  ∀ s t : State, exec .cpuid s = .next t →
    (∀ fl : Flags, exec .cpuid { s with flags := fl } = .next { t with flags := fl }) ∧
    t.flags.ID = s.flags.ID ∧ t.flags.VIP = s.flags.VIP ∧ t.flags.VIF = s.flags.VIF ∧ t.flags.AC = s.flags.AC ∧
    t.flags.VM = s.flags.VM ∧ t.flags.RF = s.flags.RF ∧ t.flags.NT = s.flags.NT ∧ t.flags.IOPL = s.flags.IOPL ∧
    t.flags.OF = s.flags.OF ∧ t.flags.DF = s.flags.DF ∧ t.flags.IF = s.flags.IF ∧ t.flags.TF = s.flags.TF ∧
    t.flags.SF = s.flags.SF ∧ t.flags.ZF = s.flags.ZF ∧ t.flags.AF = s.flags.AF ∧ t.flags.PF = s.flags.PF ∧
    t.flags.CF = s.flags.CF

/-- 40_cpuid.md section 2 (frame, program counter), D6, D7: the flags with the reserved bits of EFLAGS, every other register, the
identification constants and every byte of memory are unchanged; `pc` advances by 2 without wrapping. The four registers are
all destinations; `drawCount` is the model's own. That the time stamp counter stands still is the model's choice, log entry 34. -/
def Obligations.CpuidFrame : Prop :=
  ∀ s t : State, exec .cpuid s = .next t →
    t.flags = s.flags ∧ t.system = s.system ∧ t.cfg = s.cfg ∧
    (∀ a : Nat, Memory.read t.text a = Memory.read s.text a) ∧
    t.pc = s.pc + 2#32 ∧ t.pc.toNat = s.pc.toNat + 2

/-- 40_cpuid.md section 2 (privilege), 30_encoding.md section 6, D17: no privilege level, no mode, no other system register and
no flag changes what CPUID does. The model's choice: the reserved values the two executions draw are equal (log entry 4, unsafe
between runs), and the time stamp counter put in is carried over unchanged (log entry 34). -/
def Obligations.CpuidIgnoresPrivilegeModeAndFlags : Prop :=
  ∀ (s : State) (sys : SystemState) (fl : Flags),
    (∀ t, exec .cpuid s = .next t →
      exec .cpuid { s with system := sys, flags := fl } = .next { t with system := sys, flags := fl }) ∧
    (∀ r, exec .cpuid s = .refused r → exec .cpuid { s with system := sys, flags := fl } = .refused r)

/-- 40_cpuid.md section 2 (input and dispatch): the old contents of EBX, ECX and EDX have no influence at all. For the
reserved registers (EBX, ECX after input 1, all four under `draw4`) that is the model's choice, log entry 4 (unsafe between
runs): the spec's D3 and repeatability let the values of two executions differ. -/
def Obligations.CpuidIgnoresOldEbxEcxEdx : Prop :=
  ∀ (s : State) (b c d : Word),
    exec .cpuid { s with regs := { EAX := s.regs.EAX, EBX := b, ECX := c, EDX := d } } = exec .cpuid s

/-- 40_cpuid.md section 2 (input and dispatch, repeatability), D15, D16: on one part, two executions with the same recognised
input return the same EAX and EDX, and the same EBX and ECX unless the input is 1, whatever else the two states hold. -/
def Obligations.CpuidResultsDependOnInputAlone : Prop :=
  ∀ s1 s2 t1 t2 : State, s1.cfg = s2.cfg → s1.regs.EAX = s2.regs.EAX → s1.regs.EAX.toNat ≤ maxLeaf s1.cfg →
    exec .cpuid s1 = .next t1 → exec .cpuid s2 = .next t2 →
    t1.regs.EAX = t2.regs.EAX ∧ t1.regs.EDX = t2.regs.EDX ∧
    (s1.regs.EAX ≠ 0x00000001#32 → t1.regs.EBX = t2.regs.EBX ∧ t1.regs.ECX = t2.regs.ECX)

/-! ### Software's use of CPUID -/

/-- 70_reset_and_hazards.md section 2 (inputs software may use): the value input 0 returns is itself a recognised input (at most the maximum, whatever the part's policy on others), and CPUID
completes on it. -/
def Obligations.ReturnedMaximumIsRecognised : Prop :=
  ∀ s t : State, s.regs.EAX = 0x00000000#32 → exec .cpuid s = .next t → t.pc.toNat ≤ 0xFFFFFFFD →
    t.regs.EAX.toNat ≤ maxLeaf t.cfg ∧
    ∃ u, exec .cpuid t = .next u ∧ u.cfg = s.cfg ∧ u.pc.toNat = s.pc.toNat + 4

/-- 41_cpuid_information.md section 4 (repeat count), D15: after input 2, AL is 01h, and executing again with input 2 returns the
same four words. That AL is a count also where bit 31 of EAX is set is the model's choice, log entry 33. -/
def Obligations.CacheDescriptionNeedsOneExecution : Prop :=
  ∀ s t : State, s.regs.EAX = 0x00000002#32 → s.cfg.caches.isSome = true → exec .cpuid s = .next t →
    repeatCount t.regs.EAX = 0x01#8 ∧
    ∀ u, exec .cpuid (t.write .EAX 0x00000002#32) = .next u → u.regs = t.regs

/-- 20_memory.md sections 8 and 10, D13: bytes stored at the address of the next instruction before a CPUID is stepped are what
the fetch after it reads. -/
def Obligations.StoreBeforeCpuidIsSeenByNextFetch : Prop :=
  ∀ (s t : State) (m : Memory) (c0 c1 : Byte),
    Memory.writeBytes s.text (s.pc.toNat + 2) [c0, c1] = some m →
    step { s with text := m } = .next t →
    fetchPair t = .ok (c0, c1)

/-! ### Whole-machine rules -/

/-- 60_exceptions.md section 12 (TF stays 0) and log entry 10: the invariant holds in the model's reset state. -/
def Obligations.InvariantHoldsAtReset : Prop := State.reset.Inv

/-- 60_exceptions.md section 12, 40_cpuid.md section 2: every step of every state keeps the invariant, transfers control nowhere
but to the following instruction, and changes nothing that is no result of an instruction (the time stamp counter standing
still among it: the model's choice, log entry 34). -/
def Obligations.StepKeepsInvariant : Prop :=
  ∀ s t : State, s.Inv → step s = .next t → t.Inv ∧ noEventDelivered s t ∧ SameFixedState s t

/-- 60_exceptions.md section 12, 40_cpuid.md section 2: over any number of steps from any state, the flags, the text, the part and
every other register stay as they were (the time stamp counter by the model's choice, log entry 34), and `pc` has moved by two
bytes a step without wrapping. -/
def Obligations.RunChangesOnlyResults : Prop :=
  ∀ (k : Nat) (s t : State), Host.Core.run Sys2Proof.core k s = .next t →
    SameFixedState s t ∧ t.pc.toNat = s.pc.toNat + 2 * k

/-- The model's reset values, which the spec does not give (log entries 3, 6, 10, 11): no rule of the spec. -/
def Obligations.ResetValues : Prop :=
  State.reset.regs = { EAX := 0#32, EBX := 0#32, ECX := 0#32, EDX := State.reset.cfg.version } ∧
  State.reset.pc = 0xFFFFFFF0#32 ∧ State.reset.flags.toWord = 0x00000002#32 ∧ State.reset.text = [] ∧
  State.reset.system.CPL = 0 ∧ State.reset.system.mode = .realAddress ∧ State.reset.cfg.outOfRange = .draw4

/-- 30_encoding.md section 3 with log entries 6 and 20: the table's word placed at the reset state is stepped as CPUID with input 0,
and it completes there. -/
def Obligations.TableWordRunsFirstAfterReset : Prop :=
  ∃ t, step (State.reset.withFetchWord 16 0x0FA2) = .next t ∧
    t.regs.EBX = 0x756E6547#32 ∧ t.regs.EDX = 0x49656E69#32 ∧ t.regs.ECX = 0x6C65746E#32 ∧ t.pc = 0xFFFFFFF2#32

/-! ### Registers and flags as words -/

/-- 10_state.md section 1: a register write replaces all 32 bits of one register and nothing else, and the low-byte name is an
alias of its byte 0. -/
def Obligations.RegisterWriteAndAlias : Prop :=
  ∀ (s : State) (r q : GenReg) (v : Word),
    (s.write r v).read r = v ∧ (q ≠ r → (s.write r v).read q = s.read q) ∧
    (s.write r v).readLow r = v.extractLsb' 0 8 ∧ (q ≠ r → (s.write r v).readLow q = s.readLow q) ∧
    (s.write r v).pc = s.pc ∧ (s.write r v).flags = s.flags ∧ (s.write r v).text = s.text ∧
    (s.write r v).cfg = s.cfg ∧ (s.write r v).system = s.system ∧ (s.write r v).drawCount = s.drawCount

/-- 10_state.md section 3 (layout of EFLAGS, general knowledge of the spec, log entry 9): record and word view are inverse, but for
bit 1, which reads as 1, and each flag and reserved bit stands at the bit of the word that section 3 names. -/
def Obligations.EflagsWordViewRoundTrip : Prop :=
  (∀ f : Flags, Flags.ofWord f.toWord = f) ∧ (∀ w : Word, (Flags.ofWord w).toWord = w ||| 0x00000002#32) ∧
  (∀ f : Flags,
    f.toWord.getLsbD 0 = f.CF ∧ f.toWord.getLsbD 1 = true ∧ f.toWord.getLsbD 2 = f.PF ∧ f.toWord.getLsbD 3 = f.reserved3 ∧
    f.toWord.getLsbD 4 = f.AF ∧ f.toWord.getLsbD 5 = f.reserved5 ∧ f.toWord.getLsbD 6 = f.ZF ∧ f.toWord.getLsbD 7 = f.SF ∧
    f.toWord.getLsbD 8 = f.TF ∧ f.toWord.getLsbD 9 = f.IF ∧ f.toWord.getLsbD 10 = f.DF ∧ f.toWord.getLsbD 11 = f.OF ∧
    f.toWord.extractLsb' 12 2 = f.IOPL ∧ f.toWord.getLsbD 14 = f.NT ∧ f.toWord.getLsbD 15 = f.reserved15 ∧
    f.toWord.getLsbD 16 = f.RF ∧ f.toWord.getLsbD 17 = f.VM ∧ f.toWord.getLsbD 18 = f.AC ∧ f.toWord.getLsbD 19 = f.VIF ∧
    f.toWord.getLsbD 20 = f.VIP ∧ f.toWord.getLsbD 21 = f.ID ∧ f.toWord.extractLsb' 22 10 = f.reservedHigh)

/-! ### Configurations -/

/-- 00_scope.md section 4, D25: the admitted records of parameters are exactly the records of the model's configurations, one each. -/
def Obligations.AdmittedRecordsAreTheConfigurations : Prop :=
  (∀ r : ConfigRecord, r.admitted = true ↔ ∃ cfg : CpuidConfig, configRecord cfg = r) ∧
  (∀ c d : CpuidConfig, configRecord c = configRecord d → c = d)

/-! ### The information returned -/

/-- 41_cpuid_information.md R100: the vendor words spell "GenuineIntel" in the order EBX, EDX, ECX, byte 0 first, after CPUID with
input 0 on any part. -/
def Obligations.VendorStringSpellsGenuineIntel : Prop :=
  (∀ s : State, s.pc.toNat ≤ 0xFFFFFFFD → s.regs.EAX = 0x00000000#32 →
    ∃ t, exec .cpuid s = .next t ∧
      vendorChars t.regs.EBX t.regs.EDX t.regs.ECX =
        [0x47#8, 0x65#8, 0x6E#8, 0x75#8, 0x69#8, 0x6E#8, 0x65#8, 0x49#8, 0x6E#8, 0x74#8, 0x65#8, 0x6C#8]) ∧
  regChars 0x756E6547#32 = [0x47#8, 0x65#8, 0x6E#8, 0x75#8] ∧
  regChars 0x49656E69#32 = [0x69#8, 0x6E#8, 0x65#8, 0x49#8] ∧
  regChars 0x6C65746E#32 = [0x6E#8, 0x74#8, 0x65#8, 0x6C#8]

/-- 70_reset_and_hazards.md section 2 (the vendor check): it passes on the three words only, and the feature word does not depend on
whether input 0 was executed first, FEATURES being constant over a run (D16, log entry 26). -/
def Obligations.VendorCheckAcceptsExactlyIntel : Prop :=
  (∀ b d c : Word, isIntel b d c = true ↔ b = 0x756E6547#32 ∧ d = 0x49656E69#32 ∧ c = 0x6C65746E#32) ∧
  (∀ s t u : State, s.regs.EAX = 0x00000000#32 → exec .cpuid s = .next t → t.pc.toNat ≤ 0xFFFFFFFD →
    exec .cpuid (t.write .EAX 0x00000001#32) = .next u → u.regs.EDX = s.cfg.features ∧
    ∀ u' : State, exec .cpuid (s.write .EAX 0x00000001#32) = .next u' → u'.regs.EDX = u.regs.EDX)

/-- 41_cpuid_information.md section 2 (layout from general knowledge, log entry 15): the four fields and the upper bits make up the
version word, both ways. -/
def Obligations.VersionWordFields : Prop :=
  (∀ (upper : BitVec 18) (t : BitVec 2) (f m st : BitVec 4),
    ptype (versionWord upper t f m st) = t ∧ family (versionWord upper t f m st) = f ∧
    model (versionWord upper t f m st) = m ∧ stepping (versionWord upper t f m st) = st) ∧
  (∀ v : Word, versionWord (v.extractLsb' 14 18) (ptype v) (family v) (model v) (stepping v) = v)

/-- 41_cpuid_information.md section 2 with the layout of log entry 15: what CPUID with input 1 returns on the first Pentium Pro:
model 0001B, family 0110B, type 00B, the stepping open. -/
def Obligations.FirstPentiumProVersion : Prop :=
  ∀ (s : State) (st : BitVec 4) (features : Word) (p : OutOfRange), s.cfg = pproFirst st features p →
    s.pc.toNat ≤ 0xFFFFFFFD → s.regs.EAX = 0x00000001#32 →
    ∃ t, exec .cpuid s = .next t ∧ model t.regs.EAX = 0b0001#4 ∧ family t.regs.EAX = 0b0110#4 ∧
      processorType (ptype t.regs.EAX) = .originalOEM ∧ stepping t.regs.EAX = st ∧ t.regs.EDX = features

/-- 41_cpuid_information.md section 2 (processor types): the four type codes; a part with code 11B is admitted, where the code's
place in the version word is the layout of log entry 15 (PRESUMED, G1). -/
def Obligations.ProcessorTypeCodes : Prop :=
  processorType 0b00#2 = .originalOEM ∧ processorType 0b01#2 = .intelOverDrive ∧
  processorType 0b10#2 = .dualProcessor ∧ processorType 0b11#2 = .reserved ∧
  ∀ (upper : BitVec 18) (f m st : BitVec 4), ∃ cfg : CpuidConfig,
    cfg.version = versionWord upper 0b11#2 f m st ∧ (configRecord cfg).admitted = true

/-- 41_cpuid_information.md R109 to R116: what bits 0 to 7 of the feature word report; 36 address bits on the Pentium Pro. -/
def Obligations.FeatureBitsZeroToSevenReport : Prop :=
  (∀ w : Word,
    (hasFeature w .FPU = w.getLsbD 0 ∧ reports w .intel387Instructions = w.getLsbD 0) ∧
    (hasFeature w .VME = w.getLsbD 1 ∧ reports w .cr4VME = w.getLsbD 1 ∧ reports w .cr4PVI = w.getLsbD 1 ∧
      reports w .tssSoftwareIndirectionBitmap = w.getLsbD 1 ∧ reports w .eflagsVIF = w.getLsbD 1 ∧
      reports w .eflagsVIP = w.getLsbD 1) ∧
    (hasFeature w .DE = w.getLsbD 2 ∧ reports w .ioBreakpoints = w.getLsbD 2 ∧ reports w .cr4DE = w.getLsbD 2 ∧
      reports w .dr4Dr5Trapping = w.getLsbD 2) ∧
    (hasFeature w .PSE = w.getLsbD 3 ∧ reports w .pages4MByte = w.getLsbD 3 ∧ reports w .cr4PSE = w.getLsbD 3 ∧
      reports w .pdeModifiedBit = w.getLsbD 3) ∧
    (hasFeature w .TSC = w.getLsbD 4 ∧ reports w .rdtsc = w.getLsbD 4 ∧ reports w .cr4TSD = w.getLsbD 4) ∧
    (hasFeature w .MSR = w.getLsbD 5 ∧ reports w .rdmsr = w.getLsbD 5 ∧ reports w .wrmsr = w.getLsbD 5) ∧
    (hasFeature w .PAE = w.getLsbD 6 ∧ reports w .physicalAddressesAbove32Bits = w.getLsbD 6 ∧
      reports w .extendedPageTableEntries = w.getLsbD 6 ∧ reports w .extraTranslationLevel = w.getLsbD 6 ∧
      reports w .pages2MByte = w.getLsbD 6 ∧ reports w .cr4PAE = w.getLsbD 6) ∧
    (hasFeature w .MCE = w.getLsbD 7 ∧ reports w .cr4MCE = w.getLsbD 7)) ∧
  (∀ (st : BitVec 4) (f : Word) (p : OutOfRange), (pproFirst st f p).paeAddressBits = 36) ∧
  (∀ (v f : Word) (c : CacheWords) (p : OutOfRange), (pproFamily v f c p).paeAddressBits = 36)

/-- 41_cpuid_information.md R117, R119 to R123 (and bit 9, R118 but for its D16): what the other defined bits report; FCMOVcc and FCOMI
by the conjunction of bits 15 and 0. -/
def Obligations.FeatureBitsEightAndUpReport : Prop :=
  ∀ w : Word,
    (hasFeature w .CX8 = w.getLsbD 8 ∧ reports w .cmpxchg8b = w.getLsbD 8) ∧
    (hasFeature w .APIC = w.getLsbD 9 ∧ reports w .apicAvailable = w.getLsbD 9) ∧
    (hasFeature w .MTRR = w.getLsbD 12 ∧ reports w .mtrrs = w.getLsbD 12) ∧
    (hasFeature w .PGE = w.getLsbD 13 ∧ reports w .cr4PGE = w.getLsbD 13 ∧ reports w .pageGlobalBit = w.getLsbD 13) ∧
    (hasFeature w .MCA = w.getLsbD 14 ∧ reports w .mcgCap = w.getLsbD 14) ∧
    (hasFeature w .CMOV = w.getLsbD 15 ∧ reports w .cmovcc = w.getLsbD 15 ∧
      reports w .fcmovcc = (w.getLsbD 15 && w.getLsbD 0) ∧ reports w .fcomi = (w.getLsbD 15 && w.getLsbD 0)) ∧
    (hasFeature w .MMX = w.getLsbD 23 ∧ reports w .mmxInstructions = w.getLsbD 23)

/-- 41_cpuid_information.md section 3 (reserved bits), D4: the masks split the 32 positions, a position is reserved exactly where no
flag stands, and reserved bits change nothing that is decoded. -/
def Obligations.ReservedFeatureBitsAreIgnored : Prop :=
  (reservedFeatureMask &&& definedFeatureMask = 0#32 ∧ reservedFeatureMask ||| definedFeatureMask = 0xFFFFFFFF#32) ∧
  (∀ n : Nat, n < 32 → (featureAt n = none ↔ reservedFeatureMask.getLsbD n = true)) ∧
  (∀ v w : Word, v &&& definedFeatureMask = w &&& definedFeatureMask →
    featuresOf v = featuresOf w ∧ ∀ x : Facility, reports v x = reports w x)

/-- 41_cpuid_information.md R128: the thirteen rows of the descriptor table. -/
def Obligations.DescriptorTableRows : Prop :=
  describe 0x00#8 = .null ∧
  describe 0x01#8 = .tlb .instruction .kByte4 4 32 ∧ describe 0x02#8 = .tlb .instruction .mByte4 4 4 ∧
  describe 0x03#8 = .tlb .data .kByte4 4 64 ∧ describe 0x04#8 = .tlb .data .mByte4 4 8 ∧
  describe 0x06#8 = .cache .instruction 8 4 32 ∧ describe 0x08#8 = .cache .instruction 16 4 32 ∧
  describe 0x0A#8 = .cache .data 8 2 32 ∧ describe 0x0C#8 = .cache .data 16 2 32 ∧
  describe 0x41#8 = .cache .unified 128 4 32 ∧ describe 0x42#8 = .cache .unified 256 4 32 ∧
  describe 0x43#8 = .cache .unified 512 4 32 ∧ describe 0x44#8 = .cache .unified 1024 4 32

/-- 41_cpuid_information.md R129: the values without a row decode to `unknown`, 243 of them; a configuration that contains them is
admitted; a value of 80h or above cannot stand in byte 3 of a valid register. -/
def Obligations.DescriptorValuesWithoutRow : Prop :=
  (∀ v : Byte, describe v = .unknown v ↔
    (v = 0x05#8 ∨ v = 0x07#8 ∨ v = 0x09#8 ∨ v = 0x0B#8 ∨ (0x0D#8 ≤ v ∧ v ≤ 0x40#8) ∨ 0x45#8 ≤ v)) ∧
  ((List.range 256).filter (fun n => describe (BitVec.ofNat 8 n) == .unknown (BitVec.ofNat 8 n))).length = 243 ∧
  (∀ (ver f : Word) (c : CacheWords) (p : OutOfRange), (configRecord (pproFamily ver f c p)).admitted = true) ∧
  (∀ v : Word, registerValid v = true → byteOf 3 v < 0x80#8)

/-- 41_cpuid_information.md section 4 (valid flag, descriptor bytes, extraction): a register with bit 31 set reports nothing; a valid
EAX reports bytes 1 to 3, another valid register bytes 0 to 3. -/
def Obligations.DescriptorExtraction : Prop :=
  ∀ v : Word,
    (v.getLsbD 31 = true → ∀ e : Bool, descriptors v e = []) ∧
    (v.getLsbD 31 = false →
      descriptors v true = [v.extractLsb' 8 8, v.extractLsb' 16 8, v.extractLsb' 24 8] ∧
      descriptors v false = [v.extractLsb' 0 8, v.extractLsb' 8 8, v.extractLsb' 16 8, v.extractLsb' 24 8])

/-- 41_cpuid_information.md section 4 (order of descriptors; general knowledge, log entry 30): which of EBX, ECX and EDX holds a word
carries no meaning. Two lists report the same caches and TLBs exactly where every descriptor but the null one occurs equally
often in both, so a part with another L2 cache (43h for 42h) is told apart. -/
def Obligations.DescriptorPositionCarriesNoMeaning : Prop :=
  (∀ a b c d : Word,
    sameInventory (descriptorsOfWords a b c d) (descriptorsOfWords a c b d) = true ∧
    sameInventory (descriptorsOfWords a b c d) (descriptorsOfWords a b d c) = true) ∧
  (∀ l m : List Byte, sameInventory l m = true ↔ ∀ x : Byte, x ≠ 0x00#8 → l.count x = m.count x) ∧
  sameInventory (descriptorsOfWords 0x03020101#32 0#32 0#32 0x06040A42#32)
    (descriptorsOfWords 0x03020101#32 0#32 0#32 0x06040A43#32) = false

/-- 41_cpuid_information.md R131: the first Pentium Pro with input 2: the four words, one execution enough, all four registers valid,
and the seven descriptors the source reads from them. -/
def Obligations.FirstPentiumProCaches : Prop :=
  ∀ (s : State) (st : BitVec 4) (features : Word) (p : OutOfRange), s.cfg = pproFirst st features p →
    s.pc.toNat ≤ 0xFFFFFFFD → s.regs.EAX = 0x00000002#32 →
    ∃ t, exec .cpuid s = .next t ∧
      t.regs = { EAX := 0x03020101#32, EBX := 0x00000000#32, ECX := 0x00000000#32, EDX := 0x06040A42#32 } ∧
      repeatCount t.regs.EAX = 0x01#8 ∧
      registerValid t.regs.EAX = true ∧ registerValid t.regs.EBX = true ∧
      registerValid t.regs.ECX = true ∧ registerValid t.regs.EDX = true ∧
      (descriptors t.regs.EAX true).map describe =
        [.tlb .instruction .kByte4 4 32, .tlb .instruction .mByte4 4 4, .tlb .data .kByte4 4 64] ∧
      (descriptors t.regs.EBX false).map describe = [.null, .null, .null, .null] ∧
      (descriptors t.regs.ECX false).map describe = [.null, .null, .null, .null] ∧
      (descriptors t.regs.EDX false).map describe =
        [.cache .unified 256 4 32, .cache .data 8 2 32, .tlb .data .mByte4 4 8, .cache .instruction 8 4 32] ∧
      allDescriptors s.cfg = descriptorsOfWords t.regs.EAX t.regs.EBX t.regs.ECX t.regs.EDX
end

