-- ==== Sys2Proof/Laws/State.lean ====
section
/-! SUPPORT. One lemma per field per update of the state: register writes, free-value draws, the program counter. -/

namespace Sys2Proof.Machine

variable (s : State) (r q : GenReg) (v : Word) (i : Instr)

@[simp] theorem State.read_write_same : (s.write r v).read r = v := by cases r <;> rfl

theorem State.read_write_of_ne (h : q ≠ r) : (s.write r v).read q = s.read q := by
  cases r <;> cases q <;> first | rfl | exact absurd rfl h

@[simp] theorem State.write_pc : (s.write r v).pc = s.pc := by cases r <;> rfl
@[simp] theorem State.write_flags : (s.write r v).flags = s.flags := by cases r <;> rfl
@[simp] theorem State.write_text : (s.write r v).text = s.text := by cases r <;> rfl
@[simp] theorem State.write_cfg : (s.write r v).cfg = s.cfg := by cases r <;> rfl
@[simp] theorem State.write_system : (s.write r v).system = s.system := by cases r <;> rfl
@[simp] theorem State.write_drawCount : (s.write r v).drawCount = s.drawCount := by cases r <;> rfl

@[simp] theorem State.read_drawInto_same : (s.drawInto r).read r = Config.draw32 s.drawCount := by cases r <;> rfl

theorem State.read_drawInto_of_ne (h : q ≠ r) : (s.drawInto r).read q = s.read q := by
  cases r <;> cases q <;> first | rfl | exact absurd rfl h

@[simp] theorem State.drawInto_pc : (s.drawInto r).pc = s.pc := by cases r <;> rfl
@[simp] theorem State.drawInto_flags : (s.drawInto r).flags = s.flags := by cases r <;> rfl
@[simp] theorem State.drawInto_text : (s.drawInto r).text = s.text := by cases r <;> rfl
@[simp] theorem State.drawInto_cfg : (s.drawInto r).cfg = s.cfg := by cases r <;> rfl
@[simp] theorem State.drawInto_system : (s.drawInto r).system = s.system := by cases r <;> rfl
@[simp] theorem State.drawInto_drawCount : (s.drawInto r).drawCount = s.drawCount + 1 := rfl

@[simp] theorem State.read_advance : (s.advance i).read r = s.read r := by cases r <;> rfl
@[simp] theorem State.advance_regs : (s.advance i).regs = s.regs := rfl
@[simp] theorem State.advance_pc : (s.advance i).pc = s.pc + BitVec.ofNat 32 (instrLength i) := rfl
@[simp] theorem State.advance_flags : (s.advance i).flags = s.flags := rfl
@[simp] theorem State.advance_text : (s.advance i).text = s.text := rfl
@[simp] theorem State.advance_cfg : (s.advance i).cfg = s.cfg := rfl
@[simp] theorem State.advance_system : (s.advance i).system = s.system := rfl
@[simp] theorem State.advance_drawCount : (s.advance i).drawCount = s.drawCount := rfl

/-- `pcAtTop` as a bound on the address. -/
theorem State.pcAtTop_eq_false : s.pcAtTop = false ↔ s.pc.toNat ≤ 0xFFFFFFFD := by
  simp [State.pcAtTop, BitVec.le_def]

theorem State.pcAtTop_eq_true : s.pcAtTop = true ↔ 0xFFFFFFFD < s.pc.toNat := by
  simp [State.pcAtTop, BitVec.lt_def]

/-- Below the top the addition of the length is exact (40_cpuid.md R88). -/
theorem State.advance_pc_toNat (h : s.pcAtTop = false) : (s.advance i).pc.toNat = s.pc.toNat + instrLength i := by
  rw [State.pcAtTop_eq_false] at h
  cases i
  simp [instrLength, BitVec.toNat_add]
  omega

end Sys2Proof.Machine
end

