-- ==== Sys2Proof/Laws/Cpuid.lean ====
section
/-! SUPPORT. What CPUID can do, said once: the selection, the four results as whole register records, and the inversion of a
next state. -/

namespace Sys2Proof.Machine

theorem exec_cpuid (s : State) : exec .cpuid s = execCpuid s := rfl

theorem returnVendor_eq (s : State) : returnVendor s =
    { s with regs := { EAX := BitVec.ofNat 32 (maxLeaf s.cfg), EBX := vendorEBX, ECX := vendorECX, EDX := vendorEDX } } := rfl

theorem returnVersion_eq (s : State) : returnVersion s =
    { s with
      regs := { EAX := s.cfg.version, EBX := Config.draw32 s.drawCount, ECX := Config.draw32 (s.drawCount + 1), EDX := s.cfg.features }
      drawCount := s.drawCount + 2 } := rfl

theorem returnCache_eq (s : State) (c : CacheWords) : returnCache s c =
    { s with regs := { EAX := cacheEax c, EBX := c.EBX, ECX := c.ECX, EDX := c.EDX } } := rfl

theorem returnDraws_eq (s : State) : returnDraws s =
    { s with
      regs := { EAX := Config.draw32 s.drawCount, EBX := Config.draw32 (s.drawCount + 1), ECX := Config.draw32 (s.drawCount + 2), EDX := Config.draw32 (s.drawCount + 3) }
      drawCount := s.drawCount + 4 } := rfl

theorem selectLeaf_vendor (cfg : CpuidConfig) : selectLeaf cfg 0x00000000#32 = .vendor := rfl

theorem selectLeaf_version (cfg : CpuidConfig) : selectLeaf cfg 0x00000001#32 = .version := rfl

theorem selectLeaf_cache {cfg : CpuidConfig} {c : CacheWords} (h : cfg.caches = some c) :
    selectLeaf cfg 0x00000002#32 = .cache c := by simp [selectLeaf, h]

/-- Every arm of the selection, with the inputs that reach it. -/
theorem selectLeaf_cases (cfg : CpuidConfig) (input : Word) :
    (input = 0x00000000#32 ∧ selectLeaf cfg input = .vendor) ∨
    (input = 0x00000001#32 ∧ selectLeaf cfg input = .version) ∨
    (∃ c, input = 0x00000002#32 ∧ cfg.caches = some c ∧ selectLeaf cfg input = .cache c) ∨
    (maxLeaf cfg < input.toNat ∧ selectLeaf cfg input = .aboveMax) := by
  by_cases h0 : input = 0x00000000#32
  · subst h0; exact .inl ⟨rfl, rfl⟩
  by_cases h1 : input = 0x00000001#32
  · subst h1; exact .inr (.inl ⟨rfl, rfl⟩)
  by_cases h2 : input = 0x00000002#32
  · subst h2
    cases hc : cfg.caches with
    | none => exact .inr (.inr (.inr (by simp [selectLeaf, maxLeaf, hc])))
    | some c => exact .inr (.inr (.inl ⟨c, rfl, rfl, selectLeaf_cache hc⟩))
  · refine .inr (.inr (.inr ⟨?_, by simp [selectLeaf, h0, h1, h2]⟩))
    have : maxLeaf cfg ≤ 2 := by unfold maxLeaf; split <;> omega
    bv_omega

/-- An input above the maximum selects no other arm. -/
theorem selectLeaf_aboveMax {cfg : CpuidConfig} {input : Word} (h : maxLeaf cfg < input.toNat) :
    selectLeaf cfg input = .aboveMax := by
  have hpos : 1 ≤ maxLeaf cfg := by unfold maxLeaf; split <;> omega
  rcases selectLeaf_cases cfg input with ⟨rfl, -⟩ | ⟨rfl, -⟩ | ⟨c, rfl, hc, -⟩ | ⟨-, h'⟩
  · simp at h
  · simp at h; omega
  · simp [maxLeaf, hc] at h
  · exact h'

/-- Whatever CPUID answers as a next state is one of its four results, with the program counter advanced. -/
theorem execCpuid_next_cases {s t : State} (h : execCpuid s = .next t) :
    s.pcAtTop = false ∧
    ((s.read .EAX = 0x00000000#32 ∧ t = (returnVendor s).advance .cpuid) ∨
     (s.read .EAX = 0x00000001#32 ∧ t = (returnVersion s).advance .cpuid) ∨
     (∃ c, s.read .EAX = 0x00000002#32 ∧ s.cfg.caches = some c ∧ t = (returnCache s c).advance .cpuid) ∨
     (maxLeaf s.cfg < (s.read .EAX).toNat ∧ s.cfg.outOfRange = .draw4 ∧ t = (returnDraws s).advance .cpuid)) := by
  unfold execCpuid at h
  split at h
  · cases h
  next hp =>
    refine ⟨by simpa using hp, ?_⟩
    rcases selectLeaf_cases s.cfg (s.read .EAX) with ⟨h0, hs⟩ | ⟨h1, hs⟩ | ⟨c, h2, hc, hs⟩ | ⟨hm, hs⟩ <;>
      simp only [hs] at h
    · exact .inl ⟨h0, by cases h; rfl⟩
    · exact .inr (.inl ⟨h1, by cases h; rfl⟩)
    · exact .inr (.inr (.inl ⟨c, h2, hc, by cases h; rfl⟩))
    · cases ho : s.cfg.outOfRange <;> simp only [ho] at h <;> cases h
      exact .inr (.inr (.inr ⟨hm, rfl, rfl⟩))

end Sys2Proof.Machine
end

