-- ==== Sys2Proof/Laws/Flags.lean ====
section
/-! SUPPORT. The bits of the EFLAGS view. -/

namespace Sys2Proof.Machine

/-- Each bit of the word view is the flag, or the reserved bit, at that place. -/
theorem Flags.toWord_getLsbD (f : Flags) (i : Nat) (h : i < 32) : f.toWord.getLsbD i = f.bit i := by
  simp [Flags.toWord, h]

/-- Two words agree where the flags of one are the bits of the other. -/
theorem Flags.toWord_eq_of_bits (f : Flags) (w : Word) (h : ∀ i, i < 32 → f.bit i = w.getLsbD i) : f.toWord = w :=
  BitVec.eq_of_getLsbD_eq fun i hi => (Flags.toWord_getLsbD f i hi).trans (h i hi)

@[simp] theorem Flags.reset_toWord : Flags.reset.toWord = 0x00000002#32 :=
  Flags.toWord_eq_of_bits _ _ (by decide)

end Sys2Proof.Machine
end

