-- ==== Sys2Proof/Laws/Identification.lean ====
section
/-! SUPPORT. Bits of the composed words: the cache word of EAX, the characters of a register, the version word, a masked
feature word. -/

namespace Sys2Proof.Machine

/-- Bits of a word composed of two parts, each part read where it lies. -/
theorem getLsbD_append_word {n k : Nat} (x : BitVec n) (y : BitVec k) (i : Nat) :
    (x ++ y).getLsbD i = if i < k then y.getLsbD i else x.getLsbD (i - k) := by
  rw [BitVec.getLsbD_append]

theorem cacheEax_getLsbD (c : CacheWords) (i : Nat) :
    (cacheEax c).getLsbD i = if i < 8 then (0x01#8).getLsbD i else c.eaxDescriptors.getLsbD (i - 8) :=
  getLsbD_append_word c.eaxDescriptors 0x01#8 i

/-- The repeat count of every configuration's EAX word is 01h (D15). -/
theorem cacheEax_setWidth (c : CacheWords) : (cacheEax c).setWidth 8 = 0x01#8 := by
  apply BitVec.eq_of_getLsbD_eq
  intro i hi
  rw [BitVec.getLsbD_setWidth, cacheEax_getLsbD]
  simp [hi]

theorem byteOf_getLsbD (k : Nat) (v : Word) (i : Nat) (hi : i < 8) : (byteOf k v).getLsbD i = v.getLsbD (8 * k + i) := by
  simp [byteOf, hi]

/-- A word whose low byte is 01h is composed of its upper bytes and 01h. -/
theorem append_count_eq {w : Word} (h : w.setWidth 8 = 0x01#8) : w.extractLsb' 8 24 ++ 0x01#8 = w := by
  apply BitVec.eq_of_getLsbD_eq
  intro i hi
  rw [getLsbD_append_word]
  split
  · next h8 =>
    have := congrArg (fun x => x.getLsbD i) h
    simpa [h8] using this.symm
  · next h8 =>
    rw [BitVec.getLsbD_extractLsb']
    simp only [show i - 8 < 24 by omega, decide_true, Bool.true_and]
    congr 1
    omega

/-- Two registers that hold the same four characters are equal. -/
theorem regChars_inj {a b : Word} (h : regChars a = regChars b) : a = b := by
  simp only [regChars, List.cons.injEq, and_true] at h
  obtain ⟨h0, h1, h2, h3⟩ := h
  apply BitVec.eq_of_getLsbD_eq
  intro i hi
  have hk : ∀ k j, j < 8 → byteOf k a = byteOf k b → a.getLsbD (8 * k + j) = b.getLsbD (8 * k + j) := by
    intro k j hj e
    rw [← byteOf_getLsbD k a j hj, ← byteOf_getLsbD k b j hj, e]
  rcases (show i < 8 ∨ (8 ≤ i ∧ i < 16) ∨ (16 ≤ i ∧ i < 24) ∨ 24 ≤ i by omega) with h | h | h | h
  · have := hk 0 i h h0; simpa using this
  · have := hk 1 (i - 8) (by omega) h1; rwa [show 8 * 1 + (i - 8) = i by omega] at this
  · have := hk 2 (i - 16) (by omega) h2; rwa [show 8 * 2 + (i - 16) = i by omega] at this
  · have := hk 3 (i - 24) (by omega) h3; rwa [show 8 * 3 + (i - 24) = i by omega] at this

/-- Lists of four characters concatenated are equal part by part. -/
theorem vendorChars_inj {b d c b' d' c' : Word} (h : vendorChars b d c = vendorChars b' d' c') :
    b = b' ∧ d = d' ∧ c = c' := by
  simp only [vendorChars] at h
  obtain ⟨hbd, hc⟩ := List.append_inj h (by simp [regChars])
  obtain ⟨hb, hd⟩ := List.append_inj hbd (by simp [regChars])
  exact ⟨regChars_inj hb, regChars_inj hd, regChars_inj hc⟩

theorem versionWord_getLsbD (upper : BitVec 18) (t : BitVec 2) (f m st : BitVec 4) (i : Nat) :
    (versionWord upper t f m st).getLsbD i =
      if i < 4 then st.getLsbD i
      else if i < 8 then m.getLsbD (i - 4)
      else if i < 12 then f.getLsbD (i - 8)
      else if i < 14 then t.getLsbD (i - 12)
      else upper.getLsbD (i - 14) := by
  unfold versionWord
  erw [getLsbD_append_word, getLsbD_append_word, getLsbD_append_word, getLsbD_append_word]
  simp only [Nat.sub_sub]
  split <;> rename_i h1
  · rfl
  by_cases h2 : i < 8
  · rw [if_pos h2, if_pos (by omega)]
  by_cases h3 : i < 12
  · rw [if_neg h2, if_pos h3, if_neg (by omega), if_pos (by omega)]
  by_cases h4 : i < 14
  · rw [if_neg h2, if_neg h3, if_pos h4, if_neg (by omega), if_neg (by omega), if_pos (by omega)]
  · rw [if_neg h2, if_neg h3, if_neg h4, if_neg (by omega), if_neg (by omega), if_neg (by omega)]

theorem fieldOf_getLsbD (hi lo : Nat) (v : Word) (i : Nat) (h : i < hi - lo + 1) :
    (fieldOf hi lo v).getLsbD i = v.getLsbD (lo + i) := by
  simp [fieldOf, h]

/-- A table lookup of a value that no row lists is `unknown`. -/
theorem lookupDescriptor_of_not_mem {v : Byte} {rows : List (Byte × Descriptor)} (h : ∀ r ∈ rows, v ≠ r.1) :
    lookupDescriptor v rows = .unknown v := by
  induction rows with
  | nil => rfl
  | cons r rest ih =>
    obtain ⟨x, d⟩ := r
    have hx : v ≠ x := h (x, d) (by simp)
    simp only [lookupDescriptor, if_neg hx]
    exact ih fun r hr => h r (by simp [hr])

/-- A feature is read from the defined positions alone. -/
theorem hasFeature_mask (w : Word) (f : Feature) : hasFeature (w &&& definedFeatureMask) f = hasFeature w f := by
  simp only [hasFeature, bitOf, BitVec.getLsbD_and]
  have : definedFeatureMask.getLsbD (featureBit f) = true := by cases f <;> decide
  rw [this, Bool.and_true]

end Sys2Proof.Machine
end

