-- ==== Sys2Proof/Laws/Memory.lean ====
section
/-! SUPPORT. The program text: a read after a write, and that every memory operation keeps the canonical form. -/

namespace Sys2Proof.Machine

theorem Memory.read_write_same (m : Memory) (a : Nat) (b : Byte) : Memory.read (Memory.write m a b) a = some b := by
  induction m with
  | nil => simp [Memory.write, Memory.read]
  | cons e rest ih =>
    obtain ⟨x, c⟩ := e
    simp only [Memory.write]
    split
    · simp [Memory.read]
    · split
      · simp [Memory.read]
      · next h => simpa [Memory.read, h] using ih

theorem Memory.read_write_of_ne (m : Memory) (a a' : Nat) (b : Byte) (h : a' ≠ a) :
    Memory.read (Memory.write m a b) a' = Memory.read m a' := by
  induction m with
  | nil => simp [Memory.write, Memory.read, h]
  | cons e rest ih =>
    obtain ⟨x, c⟩ := e
    simp only [Memory.write]
    split
    · simp [Memory.read, h]
    · split
      · next hx => subst hx; simp [Memory.read, h]
      · simp [Memory.read, ih]

theorem Memory.wfFrom_mono {lo lo' : Nat} {m : Memory} (h : lo ≤ lo') (hm : Memory.wfFrom lo' m = true) :
    Memory.wfFrom lo m = true := by
  cases m with
  | nil => rfl
  | cons e rest =>
    obtain ⟨x, c⟩ := e
    simp only [Memory.wfFrom, Bool.and_eq_true, decide_eq_true_eq] at hm ⊢
    exact ⟨⟨by omega, hm.1.2⟩, hm.2⟩

theorem Memory.wfFrom_write {lo a : Nat} {m : Memory} {b : Byte} (hm : Memory.wfFrom lo m = true) (hlo : lo ≤ a)
    (ha : a < 2 ^ 32) : Memory.wfFrom lo (Memory.write m a b) = true := by
  induction m generalizing lo with
  | nil => simpa [Memory.write, Memory.wfFrom, hlo] using ha
  | cons e rest ih =>
    obtain ⟨x, c⟩ := e
    simp only [Memory.wfFrom, Bool.and_eq_true, decide_eq_true_eq] at hm
    obtain ⟨⟨h1, h2⟩, h3⟩ := hm
    simp only [Memory.write]
    split
    · simp only [Memory.wfFrom, Bool.and_eq_true, decide_eq_true_eq]
      exact ⟨⟨hlo, ha⟩, ⟨by omega, h2⟩, h3⟩
    · split
      · next hx => subst hx; simp only [Memory.wfFrom, Bool.and_eq_true, decide_eq_true_eq]; exact ⟨⟨hlo, ha⟩, h3⟩
      · simp only [Memory.wfFrom, Bool.and_eq_true, decide_eq_true_eq]
        exact ⟨⟨h1, h2⟩, ih h3 (by omega)⟩

/-- Writing a byte at a 32-bit address keeps the canonical form. -/
theorem Memory.wf_write {m : Memory} {a : Nat} {b : Byte} (hm : Memory.wf m = true) (ha : a < 2 ^ 32) :
    Memory.wf (Memory.write m a b) = true :=
  Memory.wfFrom_write hm (Nat.zero_le a) ha

/-- Writing a list of bytes keeps the canonical form. -/
theorem Memory.wf_writeBytes {bs : List Byte} {m m' : Memory} {a : Nat} (hm : Memory.wf m = true)
    (h : Memory.writeBytes m a bs = some m') : Memory.wf m' = true := by
  induction bs generalizing m a with
  | nil => simp only [Memory.writeBytes, Option.some.injEq] at h; exact h ▸ hm
  | cons b bs ih =>
    simp only [Memory.writeBytes] at h
    split at h
    · next ha => exact ih (Memory.wf_write hm ha) h
    · cases h

/-- Storing data keeps the canonical form. -/
theorem Memory.wf_writeData {m m' : Memory} {a : Word} {n : Nat} {v : Word} (hm : Memory.wf m = true)
    (h : Memory.writeData m a n v = some m') : Memory.wf m' = true :=
  Memory.wf_writeBytes hm h

/-- Writing a list of bytes leaves every address outside the list's range alone. -/
theorem Memory.read_writeBytes_outside {bs : List Byte} {m m' : Memory} {a a' : Nat}
    (h : Memory.writeBytes m a bs = some m') (ho : a' < a ∨ a + bs.length ≤ a') :
    Memory.read m' a' = Memory.read m a' := by
  induction bs generalizing m a with
  | nil => simp only [Memory.writeBytes, Option.some.injEq] at h; rw [h]
  | cons b bs ih =>
    simp only [Memory.writeBytes] at h
    simp only [List.length_cons] at ho
    split at h
    · rw [ih h (by omega), Memory.read_write_of_ne _ _ _ _ (by omega)]
    · cases h

/-- Reading back a list of bytes gives the bytes written. -/
theorem Memory.readBytes_writeBytes {bs : List Byte} {m m' : Memory} {a : Nat}
    (h : Memory.writeBytes m a bs = some m') : Memory.readBytes m' a bs.length = some bs := by
  induction bs generalizing m a with
  | nil => rfl
  | cons b bs ih =>
    simp only [Memory.writeBytes] at h
    split at h
    · simp only [List.length_cons, Memory.readBytes]
      rw [Memory.read_writeBytes_outside h (by omega), Memory.read_write_same, ih h]
      rfl
    · cases h

/-- Two adjacent bytes present make a fetch succeed. -/
theorem fetchPair_of_readBytes {s : State} {b0 b1 : Byte} (h : Memory.readBytes s.text s.pc.toNat 2 = some [b0, b1]) :
    fetchPair s = .ok (b0, b1) := by
  simp [fetchPair, h]

/-- A fetch depends on `pc` and the text alone. -/
theorem fetchPair_congr {s t : State} (hp : s.pc = t.pc) (hm : s.text = t.text) : fetchPair s = fetchPair t := by
  simp [fetchPair, hp, hm]

end Sys2Proof.Machine
end

