-- ==== Sys2Proof/Laws/PerInstr.lean ====
section
/-! SUPPORT. Statements about every instruction as syntax, one lemma per constructor. -/

namespace Sys2Proof.Laws.RoundTrip

/-- An instruction is well formed, its encoding has its length, and decoding its encoding gives it back. -/
def Statement (i : Instr) : Prop :=
  i.wellFormed = true ∧ (encode i).length = instrLength i ∧
  ∃ b0 b1, encode i = [b0, b1] ∧ decode b0 b1 = .instr i

theorem cpuid : Statement .cpuid := ⟨rfl, rfl, _, _, rfl, rfl⟩

end Sys2Proof.Laws.RoundTrip
end

