-- ==== Sys2Proof/Laws/Step.lean ====
section
/-! SUPPORT. What a step can do, said once. -/

namespace Sys2Proof.Machine

/-- A next state comes from the decoded instruction's meaning, in a state that passed every check of the step. -/
theorem step_next_cases {s t : State} (h : step s = .next t) :
    s.flags.TF = false ∧ s.pcAtTop = false ∧
    ∃ b0 b1 i, fetchPair s = .ok (b0, b1) ∧ decode b0 b1 = .instr i ∧ exec i s = .next t := by
  unfold step at h
  split at h
  · cases h
  next hT =>
    split at h
    · cases h
    next hp =>
      split at h
      · cases h
      next b0 b1 hf =>
        split at h
        · cases h
        next i hd => exact ⟨by simpa using hT, by simpa using hp, b0, b1, i, hf, hd, h⟩

theorem withFetchWord_pc (s : State) (nbits w : Nat) : (s.withFetchWord nbits w).pc = s.pc := rfl
theorem withFetchWord_regs (s : State) (nbits w : Nat) : (s.withFetchWord nbits w).regs = s.regs := rfl
theorem withFetchWord_flags (s : State) (nbits w : Nat) : (s.withFetchWord nbits w).flags = s.flags := rfl
theorem withFetchWord_cfg (s : State) (nbits w : Nat) : (s.withFetchWord nbits w).cfg = s.cfg := rfl
theorem withFetchWord_system (s : State) (nbits w : Nat) : (s.withFetchWord nbits w).system = s.system := rfl
theorem withFetchWord_drawCount (s : State) (nbits w : Nat) : (s.withFetchWord nbits w).drawCount = s.drawCount := rfl

/-- Placing a word keeps the canonical form of the text. -/
theorem withFetchWord_wf {s : State} (nbits w : Nat) (h : Memory.wf s.text = true) :
    Memory.wf (s.withFetchWord nbits w).text = true := by
  cases hw : Memory.writeBytes s.text s.pc.toNat (tableBytes nbits w) with
  | none => simpa [State.withFetchWord, hw] using h
  | some m => simpa [State.withFetchWord, hw] using Memory.wf_writeBytes h hw

end Sys2Proof.Machine
end

