-- ==== Sys2Proof/Tests/Slice0.lean ====
section
/-! SUPPORT. Tests and witnesses. Expected results are those of spec/95_test_vectors.md (V<n>) and of the rules named; a
witness_<Name> shows states and operands that meet every hypothesis of Obligations.<Name>, at a boundary where it has one. -/

namespace Sys2Proof.Tests

open Sys2Proof.Machine

/-- The start state of 95_test_vectors.md section 2.2: CPUID placed at `pc`, the old EBX, ECX, EDX, every flag clear. -/
def start (cfg : CpuidConfig) (eax pc : Word) : State where
  regs := { EAX := eax, EBX := 0x11111111#32, ECX := 0x22222222#32, EDX := 0x33333333#32 }
  pc := pc
  flags := Flags.reset
  text := [(pc.toNat, 0x0F#8), (pc.toNat + 1, 0xA2#8)]
  cfg := cfg
  system := SystemState.reset
  drawCount := 5

/-- `PENTIUM` with illustrative VERSION and FEATURES words (open fields, 00_scope.md R7). -/
def pent (p : OutOfRange) : CpuidConfig := pentium 0x0000152C#32 0x000001BF#32 p 32

/-- `PPRO_FIRST` with stepping 9 (V7) and an illustrative feature word. -/
def ppro (p : OutOfRange) : CpuidConfig := pproFirst 0x9#4 0x0000FBFF#32 p

/-! ### Checks refuse ill-formed terms (92_eei_decisions.md D25) -/

theorem test_wellFormed_cpuid : Instr.wellFormed .cpuid = true := rfl

/-- MAXLEAF 1 without cache words, and 2 with count 01h, are admitted. -/
theorem test_admitted_records :
    (configRecord (pent .refuse)).admitted = true ∧ (configRecord (ppro .refuse)).admitted = true := by decide

theorem test_refused_maxleaf_three :
    ({ configRecord (ppro .refuse) with MAXLEAF := 3 } : ConfigRecord).admitted = false := by decide

theorem test_refused_maxleaf_zero :
    ({ configRecord (pent .refuse) with MAXLEAF := 0 } : ConfigRecord).admitted = false := by decide

theorem test_refused_caches_with_maxleaf_one :
    ({ configRecord (ppro .refuse) with MAXLEAF := 1 } : ConfigRecord).admitted = false := by decide

theorem test_refused_no_caches_with_maxleaf_two :
    ({ configRecord (pent .refuse) with MAXLEAF := 2 } : ConfigRecord).admitted = false := by decide

theorem test_refused_count_two :
    ({ configRecord (ppro .refuse) with CACHE := some { EAX := 0x03020102#32, EBX := 0#32, ECX := 0#32, EDX := 0#32 } } :
      ConfigRecord).admitted = false := by decide

/-- A text that is not in canonical form is refused: a repeat, a falling order, an address of 33 bits. -/
theorem test_text_wf_refuses :
    Memory.wf [(4, 0#8), (4, 1#8)] = false ∧ Memory.wf [(5, 0#8), (4, 1#8)] = false ∧
    Memory.wf [(2 ^ 32, 0#8)] = false ∧ Memory.wf [(4, 0#8), (5, 1#8), (2 ^ 32 - 1, 2#8)] = true := by decide

/-! ### Decoding (30_encoding.md R60, R65; 95_test_vectors.md section 2.1) -/

/-- 0Fh = 0 0 0 0 1 1 1 1, A2h = 1 0 1 0 0 0 1 0 (R60, bit by bit). -/
theorem test_decode_cpuid : decode 0b00001111#8 0b10100010#8 = .instr .cpuid := by decide

theorem witness_EveryOtherBytePairIsNotInSpec :
    ¬ ((0x0F#8 : Byte) = 0x0F#8 ∧ (0xA3#8 : Byte) = 0xA2#8) ∧ ¬ ((0xA2#8 : Byte) = 0x0F#8 ∧ (0x0F#8 : Byte) = 0xA2#8) := by decide

/-- The row's number, its bytes swapped, and the largest number. -/
theorem witness_OnlyTheTableMatchDecodes :
    decodeTableWord 16 0x0FA2 = some .cpuid ∧ decodeTableWord 16 0xA20F = none ∧ decodeTableWord 16 0xFFFF = none ∧
    0xFFFF < 2 ^ 16 := by decide

/-- At the highest `pc` that runs (V22), in an empty text. -/
theorem witness_StoredEncodingIsWhatStepRuns :
    ∃ (s : State) (m : Memory), Instr.wellFormed .cpuid = true ∧ s.flags.TF = false ∧ s.pc.toNat ≤ 0xFFFFFFFD ∧
      Memory.writeBytes s.text s.pc.toNat (encode .cpuid) = some m ∧ decode 0x0F#8 0xA2#8 = .instr .cpuid :=
  ⟨{ start (pent .refuse) 0#32 0xFFFFFFFD#32 with text := [] }, _, rfl, rfl, by decide, rfl, rfl⟩

/-! ### The step -/

theorem witness_StepRunsTheDecodedInstruction :
    (start (pent .refuse) 0#32 0x1001#32).flags.TF = false ∧ (start (pent .refuse) 0#32 0x1001#32).pc.toNat ≤ 0xFFFFFFFD ∧
    Memory.readBytes (start (pent .refuse) 0#32 0x1001#32).text 0x1001 2 = some [0x0F#8, 0xA2#8] ∧
    decode 0x0F#8 0xA2#8 = .instr .cpuid ∧ Instr.wellFormed .cpuid = true := by decide

/-- One state for each clause, the pc ones at FFFFFFFDh, FFFFFFFEh (V22, V23) and FFFFFFFFh (V24). -/
theorem witness_StepChecksInOrder :
    (start (pent .refuse) 0#32 0xFFFFFFFD#32).pc.toNat ≤ 0xFFFFFFFD ∧
    0xFFFFFFFD < (start (pent .refuse) 0#32 0xFFFFFFFE#32).pc.toNat ∧
    0xFFFFFFFD < (start (pent .refuse) 0#32 0xFFFFFFFF#32).pc.toNat ∧
    (start (pent .refuse) 0#32 0x1000#32).flags.TF = false ∧
    ({ Flags.reset with TF := true } : Flags).TF = true ∧
    Memory.readBytes [] 0x1000 2 = none ∧
    Memory.readBytes [(0x1000, 0x90#8), (0x1001, 0x90#8)] 0x1000 2 = some [0x90#8, 0x90#8] ∧
    ¬ ((0x90#8 : Byte) = 0x0F#8 ∧ (0x90#8 : Byte) = 0xA2#8) := by decide

/-- V25: a state with TF = 1 is refused although its bytes are CPUID. -/
theorem test_step_trap_flag :
    step { start (pent .refuse) 0#32 0x1000#32 with flags := { Flags.reset with TF := true } } = .refused .trapFlagSet := rfl

theorem witness_StepFaultsOnlyOnAbsentText :
    step { start (pent .refuse) 0#32 0x1000#32 with text := [(0x1000, 0x0F#8)] } = .fault (.textByteAbsent 0x1000#32) := rfl

/-! ### CPUID -/

/-- V1: `PENTIUM`, input 0. -/
theorem test_cpuid_V1 : ∃ t, step (start (pent .refuse) 0x00000000#32 0x1000#32) = .next t ∧
    t.regs = { EAX := 0x00000001#32, EBX := 0x756E6547#32, ECX := 0x6C65746E#32, EDX := 0x49656E69#32 } ∧
    t.pc = 0x1002#32 ∧ t.flags = Flags.reset := ⟨_, rfl, rfl, rfl, rfl⟩

/-- V10: `PPRO_FAMILY` with the cache words 0C080501h, 80000000h, 00000000h, 440C0841h, input 2. -/
theorem test_cpuid_V10 : ∃ t,
    exec .cpuid (start (pproFamily 0#32 0#32 { eaxDescriptors := 0x0C0805#24, EBX := 0x80000000#32, ECX := 0#32, EDX := 0x440C0841#32 }
      .refuse) 0x00000002#32 0x1000#32) = .next t ∧
    t.regs = { EAX := 0x0C080501#32, EBX := 0x80000000#32, ECX := 0x00000000#32, EDX := 0x440C0841#32 } := by
  refine ⟨_, rfl, ?_⟩
  decide

/-- Also for VendorStringSpellsGenuineIntel (V22: the highest pc that runs). -/
theorem witness_CpuidInputZeroReturnsVendor :
    (start (pent .refuse) 0x00000000#32 0xFFFFFFFD#32).pc.toNat ≤ 0xFFFFFFFD ∧
    (start (pent .refuse) 0x00000000#32 0xFFFFFFFD#32).regs.EAX = 0x00000000#32 := by decide

/-- V5, V7. -/
theorem witness_CpuidInputOneReturnsVersionAndFeatures :
    (start (ppro .refuse) 0x00000001#32 0x1000#32).pc.toNat ≤ 0xFFFFFFFD ∧
    (start (ppro .refuse) 0x00000001#32 0x1000#32).regs.EAX = 0x00000001#32 := by decide

/-- V9. -/
theorem witness_CpuidInputTwoReturnsCacheWords :
    (start (ppro .refuse) 0x00000002#32 0x1000#32).pc.toNat ≤ 0xFFFFFFFD ∧
    (start (ppro .refuse) 0x00000002#32 0x1000#32).regs.EAX = 0x00000002#32 ∧
    (start (ppro .refuse) 0x00000002#32 0x1000#32).cfg.caches = some pproFirstCaches := by decide

/-- V11 (input 2 where the maximum is 1) and V15 (AL = 00h) under `refuse`, V19 and V13 under `draw4`. -/
theorem witness_CpuidInputAboveMaximum :
    (start (pent .refuse) 0x00000002#32 0x1000#32).pc.toNat ≤ 0xFFFFFFFD ∧
    maxLeaf (pent .refuse) < (0x00000002#32).toNat ∧ (pent .refuse).outOfRange = .refuse ∧
    maxLeaf (ppro .refuse) < (0x00000100#32).toNat ∧ (ppro .refuse).outOfRange = .refuse ∧
    maxLeaf (ppro .draw4) < (0x00000003#32).toNat ∧ maxLeaf (ppro .draw4) < (0xFFFFFFFF#32).toNat ∧
    (ppro .draw4).outOfRange = .draw4 := by decide

theorem witness_CpuidRefusedAtTopOfAddressSpace :
    0xFFFFFFFD < (start (pent .refuse) 0#32 0xFFFFFFFE#32).pc.toNat := by decide

/-- Both sides of CpuidCompletesExactlyWhen: input 1 is recognised everywhere, V19 runs, V11 does not. -/
theorem witness_CpuidCompletesExactlyWhen :
    (∃ t, exec .cpuid (start (pent .refuse) 0x00000001#32 0x1000#32) = .next t) ∧
    (∃ t, exec .cpuid (start (ppro .draw4) 0x00000003#32 0x1000#32) = .next t) ∧
    exec .cpuid (start (pent .refuse) 0x00000002#32 0x1000#32) = .refused .cpuidInputAboveMax :=
  ⟨⟨_, rfl⟩, ⟨_, rfl⟩, rfl⟩

/-- Both refusals of CPUID arise. -/
theorem witness_CpuidStopsOnlyByTwoRefusals :
    exec .cpuid (start (pent .refuse) 0x00000000#32 0xFFFFFFFE#32) = .refused .pcAtTopOfAddressSpace ∧
    exec .cpuid (start (ppro .refuse) 0x80000000#32 0x1000#32) = .refused .cpuidInputAboveMax := ⟨rfl, rfl⟩

/-- For CpuidLeavesEveryFlag and CpuidFrame: a state with every flag set but TF (V26), and the next state of input 1. -/
theorem witness_CpuidFrame : ∃ t,
    exec .cpuid { start (ppro .refuse) 0x00000001#32 0x1000#32 with flags := Flags.ofWord 0x003F7ED7#32 } = .next t ∧
    t.flags = Flags.ofWord 0x003F7ED7#32 := ⟨_, rfl, rfl⟩

/-- A next state and a refusal, with another privilege level, mode and flags. -/
theorem witness_CpuidIgnoresPrivilegeModeAndFlags :
    (∃ t, exec .cpuid (start (ppro .refuse) 0x00000002#32 0x1000#32) = .next t) ∧
    exec .cpuid (start (ppro .refuse) 0x00000003#32 0x1000#32) = .refused .cpuidInputAboveMax ∧
    { SystemState.reset with CPL := 3, mode := .virtual8086 } ≠ SystemState.reset := ⟨⟨_, rfl⟩, rfl, by decide⟩

/-- Two states of one part with the same input and nothing else in common. -/
theorem witness_CpuidResultsDependOnInputAlone : ∃ s1 s2 t1 t2 : State, s1.cfg = s2.cfg ∧ s1.regs.EAX = s2.regs.EAX ∧
    s1.regs.EAX.toNat ≤ maxLeaf s1.cfg ∧ exec .cpuid s1 = .next t1 ∧ exec .cpuid s2 = .next t2 ∧
    s1.regs.EAX ≠ 0x00000001#32 ∧ s1.pc ≠ s2.pc :=
  ⟨start (ppro .refuse) 2#32 0x1000#32, start (ppro .refuse) 2#32 0x2000#32, _, _, rfl, rfl, by decide, rfl, rfl, by decide, by decide⟩

/-- P2 on `PPRO_FIRST`. -/
theorem witness_ReturnedMaximumIsRecognised : ∃ t, (start (ppro .refuse) 0#32 0x2000#32).regs.EAX = 0x00000000#32 ∧
    exec .cpuid (start (ppro .refuse) 0#32 0x2000#32) = .next t ∧ t.pc.toNat ≤ 0xFFFFFFFD := ⟨_, rfl, rfl, by decide⟩

theorem witness_CacheDescriptionNeedsOneExecution : ∃ t u, (start (ppro .refuse) 2#32 0x2000#32).regs.EAX = 0x00000002#32 ∧
    (start (ppro .refuse) 2#32 0x2000#32).cfg.caches.isSome = true ∧
    exec .cpuid (start (ppro .refuse) 2#32 0x2000#32) = .next t ∧
    exec .cpuid (t.write .EAX 0x00000002#32) = .next u := ⟨_, _, rfl, rfl, rfl, rfl⟩

theorem witness_StoreBeforeCpuidIsSeenByNextFetch : ∃ t m,
    Memory.writeBytes (start (ppro .refuse) 0#32 0x2000#32).text 0x2002 [0x0F#8, 0xA2#8] = some m ∧
    step { start (ppro .refuse) 0#32 0x2000#32 with text := m } = .next t := ⟨_, _, rfl, rfl⟩

theorem witness_StepKeepsInvariant : ∃ t, (start (ppro .refuse) 0#32 0x2000#32).Inv ∧
    step (start (ppro .refuse) 0#32 0x2000#32) = .next t := ⟨_, ⟨rfl, by decide⟩, rfl⟩

/-- P2 on `PPRO_FIRST`: two CPUIDs in a row. -/
theorem witness_RunChangesOnlyResults : ∃ t : State,
    Host.Core.run Sys2Proof.core 2 { start (ppro .refuse) 0#32 0x2000#32 with
      text := [(0x2000, 0x0F#8), (0x2001, 0xA2#8), (0x2002, 0x0F#8), (0x2003, 0xA2#8)] } = .next t := ⟨_, rfl⟩

theorem witness_RegisterWriteAndAlias : GenReg.EBX ≠ GenReg.EAX := by decide

/-- AL of 03020101h is 01h (10_state.md R21). -/
theorem test_low_byte : (start (ppro .refuse) 0x03020101#32 0#32).readLow .EAX = 0x01#8 := by decide

/-- 95_test_vectors.md section 2.4: the two EFLAGS words, through the record and back. -/
theorem test_eflags_words :
    (Flags.ofWord 0x00000002#32).toWord = 0x00000002#32 ∧ (Flags.ofWord 0x003F7ED7#32).toWord = 0x003F7ED7#32 ∧
    (Flags.ofWord 0x003F7ED7#32).TF = false ∧ (Flags.ofWord 0x003F7ED7#32).IOPL = 0b11#2 :=
  ⟨Flags.toWord_eq_of_bits _ _ (by decide), Flags.toWord_eq_of_bits _ _ (by decide), by decide, by decide⟩

/-! ### Returned information -/

/-- 20_memory.md R42: EBX, EDX, ECX stored least significant byte first spell the string. -/
theorem test_vendor_bytes : leBytes 4 vendorEBX ++ leBytes 4 vendorEDX ++ leBytes 4 vendorECX = genuineIntel := by decide

theorem witness_VendorCheckAcceptsExactlyIntel : ∃ t u u',
    (start (pent .refuse) 0#32 0x2000#32).regs.EAX = 0x00000000#32 ∧
    exec .cpuid (start (pent .refuse) 0#32 0x2000#32) = .next t ∧ t.pc.toNat ≤ 0xFFFFFFFD ∧
    exec .cpuid (t.write .EAX 0x00000001#32) = .next u ∧
    exec .cpuid ((start (pent .refuse) 0#32 0x2000#32).write .EAX 0x00000001#32) = .next u' :=
  ⟨_, _, _, rfl, rfl, by decide, rfl, rfl⟩

/-- V50 to V53: type, family, model, stepping. -/
theorem test_version_fields :
    (ptype 0x00000619#32 = 0b00#2 ∧ family 0x00000619#32 = 0b0110#4 ∧ model 0x00000619#32 = 0b0001#4 ∧ stepping 0x00000619#32 = 0b1001#4) ∧
    (ptype 0x0000152C#32 = 0b01#2 ∧ family 0x0000152C#32 = 0b0101#4 ∧ model 0x0000152C#32 = 0b0010#4 ∧ stepping 0x0000152C#32 = 0b1100#4) ∧
    processorType (ptype 0x00002524#32) = .dualProcessor ∧ processorType (ptype 0x00003000#32) = .reserved := by decide

/-- V7. -/
theorem witness_FirstPentiumProVersion :
    (start (ppro .refuse) 1#32 0x1000#32).cfg = pproFirst 0x9#4 0x0000FBFF#32 .refuse ∧
    (start (ppro .refuse) 1#32 0x1000#32).pc.toNat ≤ 0xFFFFFFFD ∧
    (start (ppro .refuse) 1#32 0x1000#32).regs.EAX = 0x00000001#32 ∧ (ppro .refuse).version = 0x00000619#32 := by decide

/-- V31, V33, V34. -/
theorem test_feature_words :
    featuresOf 0x000001BF#32 = [.FPU, .VME, .DE, .PSE, .TSC, .MSR, .MCE, .CX8] ∧
    featuresOf 0x0080F3FF#32 = allFeatures ∧ featuresOf 0xFF7F0C00#32 = [] := by decide

/-- V35, V36. -/
theorem test_fcmov : reports 0x00008001#32 .fcmovcc = true ∧ reports 0x00008000#32 .fcmovcc = false ∧
    reports 0x00008000#32 .cmovcc = true := by decide

/-- A defined and a reserved position (10, the lowest; 31, the highest), and two words that differ in a reserved bit. -/
theorem witness_ReservedFeatureBitsAreIgnored :
    (10 < 32 ∧ 31 < 32 ∧ 23 < 32 ∧ featureAt 10 = none ∧ featureAt 31 = none ∧ featureAt 23 = some .MMX) ∧
    (0x0000FBFF#32 : Word) &&& definedFeatureMask = 0x0000F3FF#32 &&& definedFeatureMask ∧ (0x0000FBFF#32 : Word) ≠ 0x0000F3FF#32 := by
  decide

/-- V40, V42 to V45, V47. -/
theorem test_descriptors :
    descriptors 0x03020101#32 true = [0x01#8, 0x02#8, 0x03#8] ∧
    descriptors 0x06040A42#32 false = [0x42#8, 0x0A#8, 0x04#8, 0x06#8] ∧
    descriptors 0x80000000#32 false = [] ∧ descriptors 0x8C0A0601#32 true = [] ∧
    (descriptors 0x0C080501#32 true).map describe = [.unknown 0x05#8, .cache .instruction 16 4 32, .cache .data 16 2 32] ∧
    (descriptors 0x7F0000FF#32 false).map describe = [.unknown 0xFF#8, .null, .null, .unknown 0x7F#8] := by decide

/-- 95_test_vectors.md section 2.6, last line. -/
theorem test_all_descriptors_ppro_first :
    allDescriptors (ppro .refuse) =
      [0x01#8, 0x02#8, 0x03#8, 0#8, 0#8, 0#8, 0#8, 0#8, 0#8, 0#8, 0#8, 0x42#8, 0x0A#8, 0x04#8, 0x06#8] := by decide

/-- Order and null descriptors do not count, how often a descriptor occurs does (41_cpuid_information.md R130, R132). -/
theorem test_same_inventory :
    sameInventory [0x42#8, 0x00#8, 0x0A#8] [0x0A#8, 0x42#8] = true ∧ sameInventory [0x42#8] [0x43#8] = false ∧
    sameInventory [0x42#8, 0x42#8] [0x42#8] = false ∧ sameInventory [] [0x0A#8] = false := by decide

/-- A descriptor value that is not the null one. -/
theorem witness_DescriptorPositionCarriesNoMeaning : (0x42#8 : Byte) ≠ 0x00#8 := by decide

/-- A valid register whose byte 3 is as large as it can be. -/
theorem witness_DescriptorValuesWithoutRow : registerValid 0x7F0000FF#32 = true := by decide

theorem witness_DescriptorExtraction : (0x80000000#32 : Word).getLsbD 31 = true ∧ (0x7FFFFFFF#32 : Word).getLsbD 31 = false := by
  decide

/-- V9. -/
theorem witness_FirstPentiumProCaches :
    (start (ppro .refuse) 2#32 0x1000#32).cfg = pproFirst 0x9#4 0x0000FBFF#32 .refuse ∧
    (start (ppro .refuse) 2#32 0x1000#32).pc.toNat ≤ 0xFFFFFFFD ∧
    (start (ppro .refuse) 2#32 0x1000#32).regs.EAX = 0x00000002#32 := by decide

end Sys2Proof.Tests
end

section
/-! SUPPORT. The encoding of CPUID (30_encoding.md R60, R61, R64): what the encoder and the decoder say of the opcode
table's one row. -/

namespace Sys2Proof

/-- The opcode table has one row (30_encoding.md R64). -/
theorem Instr.eq_cpuid : ∀ i : Instr, i = .cpuid
  | .cpuid => rfl

theorem encode_cpuid : encode .cpuid = [0x0F#8, 0xA2#8] := rfl

/-- The length is that of the encoding, so it says nothing the two bytes do not (30_encoding.md R61). -/
theorem instrLength_eq_length_encode (i : Instr) : instrLength i = (encode i).length := by
  cases i with
  | cpuid =>
    obtain ⟨_, hlength, _⟩ := Laws.RoundTrip.cpuid
    exact hlength.symm

/-- The decoder reads CPUID from 0Fh, A2h and from no other pair (30_encoding.md R60, R65). -/
theorem decode_eq_cpuid_iff (b0 b1 : Byte) : decode b0 b1 = .instr .cpuid ↔ b0 = 0x0F#8 ∧ b1 = 0xA2#8 := by
  unfold decode
  split
  next hb => exact iff_of_true rfl hb
  next hb => exact iff_of_false (by simp) hb

/-- Settles O1: the bytes in binary are the encoder's in hexadecimal, the length and the decoding follow from them, and `Instr`
has one constructor. -/
theorem cpuidEncodingIsTwoBytes : Obligations.CpuidEncodingIsTwoBytes := by
  have hbits : (0b00001111#8 ++ 0b10100010#8 : BitVec 16) = 0b0000111110100010#16 := by decide
  have hlength : instrLength .cpuid = 2 := by rw [instrLength_eq_length_encode, encode_cpuid]; rfl
  have hdecode : decode 0x0F#8 0xA2#8 = .instr .cpuid := (decode_eq_cpuid_iff _ _).2 ⟨rfl, rfl⟩
  exact ⟨encode_cpuid, hbits, hlength, hdecode, Instr.eq_cpuid⟩

end Sys2Proof
end

section
/-! SUPPORT. CPUID with a recognised input, below the top of the address space (40_cpuid.md R82, R84): the next state it
answers. `execCpuid_next_cases` says the converse. -/

namespace Sys2Proof.Machine

/-- Input 0 completes on every part. -/
theorem exec_cpuid_vendor {s : State} (hpc : s.pc.toNat ≤ 0xFFFFFFFD) (hinput : s.regs.EAX = 0x00000000#32) :
    exec .cpuid s = .next ((returnVendor s).advance .cpuid) := by
  have htop : s.pcAtTop = false := s.pcAtTop_eq_false.2 hpc
  have hleaf : selectLeaf s.cfg (s.read .EAX) = .vendor := by
    rw [show s.read .EAX = 0x00000000#32 from hinput, selectLeaf_vendor]
  simp [exec_cpuid, execCpuid, htop, hleaf]

/-- Input 2 completes on a part that has the cache words. -/
theorem exec_cpuid_cache {s : State} {c : CacheWords} (hpc : s.pc.toNat ≤ 0xFFFFFFFD)
    (hinput : s.regs.EAX = 0x00000002#32) (hcaches : s.cfg.caches = some c) :
    exec .cpuid s = .next ((returnCache s c).advance .cpuid) := by
  have htop : s.pcAtTop = false := s.pcAtTop_eq_false.2 hpc
  have hleaf : selectLeaf s.cfg (s.read .EAX) = .cache c := by
    rw [show s.read .EAX = 0x00000002#32 from hinput, selectLeaf_cache hcaches]
  simp [exec_cpuid, execCpuid, htop, hleaf]

end Sys2Proof.Machine
end

section
/-! SUPPORT. Input 0: the vendor string (41_cpuid_information.md R100). -/

namespace Sys2Proof.Machine

theorem regChars_vendorEBX : regChars vendorEBX = [0x47#8, 0x65#8, 0x6E#8, 0x75#8] := by decide
theorem regChars_vendorEDX : regChars vendorEDX = [0x69#8, 0x6E#8, 0x65#8, 0x49#8] := by decide
theorem regChars_vendorECX : regChars vendorECX = [0x6E#8, 0x74#8, 0x65#8, 0x6C#8] := by decide

/-- The three words in the order EBX, EDX, ECX spell the string. -/
theorem vendorChars_vendor_words : vendorChars vendorEBX vendorEDX vendorECX = genuineIntel := by
  rw [vendorChars, regChars_vendorEBX, regChars_vendorEDX, regChars_vendorECX]
  rfl

/-- Settles O32: input 0 completes with the three vendor words, whose characters are those of the table. -/
theorem vendorStringSpellsGenuineIntel : Obligations.VendorStringSpellsGenuineIntel := by
  unfold Obligations.VendorStringSpellsGenuineIntel
  refine ⟨fun s hpc hinput => ?_, regChars_vendorEBX, regChars_vendorEDX, regChars_vendorECX⟩
  refine ⟨_, exec_cpuid_vendor hpc hinput, ?_⟩
  rw [State.advance_regs, returnVendor_eq]
  exact vendorChars_vendor_words

end Sys2Proof.Machine
end

section
/-! SUPPORT. Input 1: what the feature flags report (41_cpuid_information.md R108 to R123). -/

namespace Sys2Proof.Machine

variable (w : Word) (f g : Feature) {x : Facility}

theorem hasFeature_eq_getLsbD : hasFeature w f = w.getLsbD (featureBit f) := rfl

/-- A facility that one flag reports is reported exactly by that flag's bit. -/
theorem reports_of_one_flag (h : facilityFlags x = [f]) : reports w x = w.getLsbD (featureBit f) := by
  simp [reports, h, hasFeature_eq_getLsbD]

/-- A facility that two flags report is reported by the conjunction of their bits (R122). -/
theorem reports_of_two_flags (h : facilityFlags x = [f, g]) :
    reports w x = (w.getLsbD (featureBit f) && w.getLsbD (featureBit g)) := by
  simp [reports, h, hasFeature_eq_getLsbD]

/-- Settles O37: a facility of these bits has one flag in `facilityFlags`, and `featureBit` gives the flag's position. -/
theorem featureBitsZeroToSevenReport : Obligations.FeatureBitsZeroToSevenReport := by
  unfold Obligations.FeatureBitsZeroToSevenReport
  refine ⟨fun w => ⟨?fpu, ?vme, ?de, ?pse, ?tsc, ?msr, ?pae, ?mce⟩, fun _ _ _ => rfl, fun _ _ _ _ => rfl⟩
  case fpu =>
    exact ⟨hasFeature_eq_getLsbD w .FPU, reports_of_one_flag w .FPU rfl⟩
  case vme =>
    have hvme {x} (h : facilityFlags x = [.VME]) : reports w x = w.getLsbD 1 := reports_of_one_flag w .VME h
    exact ⟨hasFeature_eq_getLsbD w .VME, hvme rfl, hvme rfl, hvme rfl, hvme rfl, hvme rfl⟩
  case de =>
    have hde {x} (h : facilityFlags x = [.DE]) : reports w x = w.getLsbD 2 := reports_of_one_flag w .DE h
    exact ⟨hasFeature_eq_getLsbD w .DE, hde rfl, hde rfl, hde rfl⟩
  case pse =>
    have hpse {x} (h : facilityFlags x = [.PSE]) : reports w x = w.getLsbD 3 := reports_of_one_flag w .PSE h
    exact ⟨hasFeature_eq_getLsbD w .PSE, hpse rfl, hpse rfl, hpse rfl⟩
  case tsc =>
    exact ⟨hasFeature_eq_getLsbD w .TSC, reports_of_one_flag w .TSC rfl, reports_of_one_flag w .TSC rfl⟩
  case msr =>
    exact ⟨hasFeature_eq_getLsbD w .MSR, reports_of_one_flag w .MSR rfl, reports_of_one_flag w .MSR rfl⟩
  case pae =>
    have hpae {x} (h : facilityFlags x = [.PAE]) : reports w x = w.getLsbD 6 := reports_of_one_flag w .PAE h
    exact ⟨hasFeature_eq_getLsbD w .PAE, hpae rfl, hpae rfl, hpae rfl, hpae rfl, hpae rfl⟩
  case mce =>
    exact ⟨hasFeature_eq_getLsbD w .MCE, reports_of_one_flag w .MCE rfl⟩

/-- Settles O38: as for bits 0 to 7, but FCMOVcc and FCOMI have the two flags CMOV and FPU. -/
theorem featureBitsEightAndUpReport : Obligations.FeatureBitsEightAndUpReport := by
  unfold Obligations.FeatureBitsEightAndUpReport
  refine fun w => ⟨?cx8, ?apic, ?mtrr, ?pge, ?mca, ?cmov, ?mmx⟩
  case cx8 => exact ⟨hasFeature_eq_getLsbD w .CX8, reports_of_one_flag w .CX8 rfl⟩
  case apic => exact ⟨hasFeature_eq_getLsbD w .APIC, reports_of_one_flag w .APIC rfl⟩
  case mtrr => exact ⟨hasFeature_eq_getLsbD w .MTRR, reports_of_one_flag w .MTRR rfl⟩
  case pge =>
    exact ⟨hasFeature_eq_getLsbD w .PGE, reports_of_one_flag w .PGE rfl, reports_of_one_flag w .PGE rfl⟩
  case mca => exact ⟨hasFeature_eq_getLsbD w .MCA, reports_of_one_flag w .MCA rfl⟩
  case cmov =>
    exact ⟨hasFeature_eq_getLsbD w .CMOV, reports_of_one_flag w .CMOV rfl,
      reports_of_two_flags w .CMOV .FPU rfl, reports_of_two_flags w .CMOV .FPU rfl⟩
  case mmx => exact ⟨hasFeature_eq_getLsbD w .MMX, reports_of_one_flag w .MMX rfl⟩

end Sys2Proof.Machine
end

section
/-! SUPPORT. Input 2: the descriptor table as a function on values (41_cpuid_information.md R128, R129). -/

namespace Sys2Proof.Machine

/-- Where no value has two rows, a lookup finds the value's row. -/
theorem lookupDescriptor_of_mem {v : Byte} {d : Descriptor} {rows : List (Byte × Descriptor)}
    (hnodup : (rows.map Prod.fst).Nodup) (hmem : (v, d) ∈ rows) : lookupDescriptor v rows = d := by
  induction rows with
  | nil => cases hmem
  | cons r rest ih =>
    obtain ⟨x, e⟩ := r
    obtain ⟨hx, hrest⟩ := List.nodup_cons.1 hnodup
    rcases List.mem_cons.1 hmem with heq | hin
    · cases heq
      simp [lookupDescriptor]
    · have hne : v ≠ x := by
        rintro rfl
        exact hx (List.mem_map.2 ⟨_, hin, rfl⟩)
      simp only [lookupDescriptor, if_neg hne]
      exact ih hrest hin

/-- The thirteen rows of R128, the null row first. -/
def descriptorRows : List (Byte × Descriptor) := (0x00#8, .null) :: descriptorTable

/-- The thirteen values that have a row. -/
def describedValues : List Byte := descriptorRows.map Prod.fst

theorem describe_eq_lookup (v : Byte) : describe v = lookupDescriptor v descriptorRows := rfl

theorem describedValues_eq : describedValues =
    [0x00#8, 0x01#8, 0x02#8, 0x03#8, 0x04#8, 0x06#8, 0x08#8, 0x0A#8, 0x0C#8, 0x41#8, 0x42#8, 0x43#8, 0x44#8] := rfl

theorem describedValues_nodup : describedValues.Nodup := by decide

theorem describe_of_row {v : Byte} {d : Descriptor} (h : (v, d) ∈ descriptorRows) : describe v = d := by
  rw [describe_eq_lookup]
  exact lookupDescriptor_of_mem describedValues_nodup h

/-- No row of the table says `unknown`. -/
theorem ne_unknown_of_mem_descriptorRows : ∀ r ∈ descriptorRows, r.2 ≠ .unknown r.1 := by decide

/-- A value decodes to `unknown` exactly where it has no row (R129). -/
theorem describe_eq_unknown_iff (v : Byte) : describe v = .unknown v ↔ v ∉ describedValues := by
  constructor
  · intro hunknown hmem
    obtain ⟨r, hr, rfl⟩ := List.mem_map.1 hmem
    exact ne_unknown_of_mem_descriptorRows r hr ((describe_of_row hr).symm.trans hunknown)
  · intro hmem
    rw [describe_eq_lookup]
    exact lookupDescriptor_of_not_mem fun r hr hv => hmem (hv ▸ List.mem_map_of_mem hr)

/-- Settles O40: each of the thirteen is a row of the table. -/
theorem descriptorTableRows : Obligations.DescriptorTableRows := by
  unfold Obligations.DescriptorTableRows
  refine ⟨?_, ?_, ?_, ?_, ?_, ?_, ?_, ?_, ?_, ?_, ?_, ?_, ?_⟩ <;>
    exact describe_of_row (by decide)

end Sys2Proof.Machine
end

section
/-! SUPPORT. The descriptor values without a row (41_cpuid_information.md R129). -/

namespace Sys2Proof.Machine

/-- The values without a row, by range. -/
theorem not_mem_describedValues_iff (v : Byte) : v ∉ describedValues ↔
    (v = 0x05#8 ∨ v = 0x07#8 ∨ v = 0x09#8 ∨ v = 0x0B#8 ∨ (0x0D#8 ≤ v ∧ v ≤ 0x40#8) ∨ 0x45#8 ≤ v) := by
  simp only [describedValues_eq, List.mem_cons, List.not_mem_nil, or_false]
  bv_omega

/-- The numbers below 256 that stand for a value with a row. -/
theorem filter_mem_describedValues_perm :
    ((List.range 256).filter (fun n => BitVec.ofNat 8 n ∈ describedValues)).Perm
      (describedValues.map BitVec.toNat) := by
  have hnodup : (describedValues.map BitVec.toNat).Nodup :=
    describedValues_nodup.map fun _ _ => BitVec.eq_of_toNat_eq
  refine (List.perm_ext_iff_of_nodup (List.nodup_range.filter _) hnodup).2 fun n => ?_
  simp only [List.mem_filter, List.mem_range, decide_eq_true_eq, List.mem_map]
  constructor
  · rintro ⟨hn, hmem⟩
    exact ⟨_, hmem, by simp [Nat.mod_eq_of_lt hn]⟩
  · rintro ⟨v, hv, rfl⟩
    exact ⟨v.isLt, by simpa using hv⟩

/-- All but thirteen of the 256 values decode to `unknown`. -/
theorem length_filter_describe_unknown :
    ((List.range 256).filter fun n => describe (BitVec.ofNat 8 n) == .unknown (BitVec.ofNat 8 n)).length = 243 := by
  have hsplit := List.length_eq_length_filter_add (l := List.range 256)
    (fun n => decide (BitVec.ofNat 8 n ∈ describedValues))
  have hdescribed : ((List.range 256).filter fun n => BitVec.ofNat 8 n ∈ describedValues).length = 13 := by
    rw [filter_mem_describedValues_perm.length_eq, List.length_map, describedValues_eq]
    rfl
  have hunknown : ∀ n : Nat, (describe (BitVec.ofNat 8 n) == .unknown (BitVec.ofNat 8 n)) =
      !decide (BitVec.ofNat 8 n ∈ describedValues) := fun n => by
    rw [← decide_not, Bool.beq_eq_decide_eq]
    exact decide_eq_decide.2 (describe_eq_unknown_iff _)
  simp only [hunknown]
  rw [List.length_range] at hsplit
  omega

/-- The record of every configuration of the model is admitted (D25): its cache words have the count 01h by construction. -/
theorem configRecord_admitted (cfg : CpuidConfig) : (configRecord cfg).admitted = true := by
  cases hc : cfg.caches with
  | none => simp [configRecord, ConfigRecord.admitted, maxLeaf, hc]
  | some c => simp [configRecord, ConfigRecord.admitted, maxLeaf, cacheRecord, cacheEax_setWidth, hc]

/-- Bit 31 is the top bit of byte 3, so a valid register has a byte below 80h there (R126). -/
theorem byteOf_three_lt_of_registerValid {v : Word} (h : registerValid v = true) : byteOf 3 v < 0x80#8 := by
  have hbit : v.getLsbD 31 = false := by simpa [registerValid, bitOf] using h
  have hmsb : (byteOf 3 v).msb = false := by
    rw [BitVec.msb_eq_getLsbD_last, byteOf_getLsbD 3 v 7 (by decide)]
    exact hbit
  have hlt : 2 * (byteOf 3 v).toNat < 2 ^ 8 := BitVec.msb_eq_false_iff_two_mul_lt.1 hmsb
  bv_omega

/-- Settles O41: `unknown` is what the thirteen rows leave, counted as the complement of their values. -/
theorem descriptorValuesWithoutRow : Obligations.DescriptorValuesWithoutRow := by
  unfold Obligations.DescriptorValuesWithoutRow
  refine ⟨fun v => ?_, length_filter_describe_unknown, fun _ _ _ _ => configRecord_admitted _,
    fun _ => byteOf_three_lt_of_registerValid⟩
  exact (describe_eq_unknown_iff v).trans (not_mem_describedValues_iff v)

end Sys2Proof.Machine
end

section
/-! SUPPORT. Input 2 on the first Pentium Pro (41_cpuid_information.md R131). -/

namespace Sys2Proof.Machine

theorem allDescriptors_of_caches {cfg : CpuidConfig} {c : CacheWords} (h : cfg.caches = some c) :
    allDescriptors cfg = descriptorsOfWords (cacheEax c) c.EBX c.ECX c.EDX := by
  simp [allDescriptors, h]

theorem pproFirst_caches (st : BitVec 4) (features : Word) (p : OutOfRange) :
    (pproFirst st features p).caches = some pproFirstCaches := rfl

theorem cacheEax_pproFirst : cacheEax pproFirstCaches = 0x03020101#32 := by decide

/-- The descriptors of EAX: bytes 1 to 3, the count left out. -/
theorem descriptors_pproFirst_eax : descriptors 0x03020101#32 true = [0x01#8, 0x02#8, 0x03#8] := by decide

theorem descriptors_zero : descriptors 0x00000000#32 false = [0x00#8, 0x00#8, 0x00#8, 0x00#8] := by decide

theorem descriptors_pproFirst_edx : descriptors 0x06040A42#32 false = [0x42#8, 0x0A#8, 0x04#8, 0x06#8] := by decide

/-- The next state's registers, as the source lists them. -/
theorem returnCache_pproFirst_regs (s : State) : (returnCache s pproFirstCaches).regs =
    { EAX := 0x03020101#32, EBX := 0x00000000#32, ECX := 0x00000000#32, EDX := 0x06040A42#32 } := by
  rw [returnCache_eq, cacheEax_pproFirst]
  rfl

/-- Settles O44: input 2 completes with the four words, and each of their descriptor bytes has a row in the table. -/
theorem firstPentiumProCaches : Obligations.FirstPentiumProCaches := by
  unfold Obligations.FirstPentiumProCaches
  intro s st features p hcfg hpc hinput
  have hcaches : s.cfg.caches = some pproFirstCaches := hcfg ▸ pproFirst_caches st features p
  obtain ⟨null, code4K, code4M, data4K, data4M, l1Code8K, _, l1Data8K, _, _, unified256K, _⟩ := descriptorTableRows
  refine ⟨_, exec_cpuid_cache hpc hinput hcaches, ?_⟩
  rw [State.advance_regs, returnCache_pproFirst_regs]
  refine ⟨rfl, by decide, by decide, by decide, by decide, by decide, ?eax, ?ebx, ?ecx, ?edx, ?all⟩
  case eax => simp [descriptors_pproFirst_eax, code4K, code4M, data4K]
  case ebx => simp [descriptors_zero, null]
  case ecx => simp [descriptors_zero, null]
  case edx => simp [descriptors_pproFirst_edx, unified256K, l1Data8K, data4M, l1Code8K]
  case all => rw [allDescriptors_of_caches hcaches, cacheEax_pproFirst]; rfl

end Sys2Proof.Machine
end

section
/-! SUPPORT. The decoder over all byte pairs and over the opcode table's numbers (30_encoding.md R65, R66). -/

namespace Sys2Proof

/-- A pair that is not 0Fh, A2h is named in the verdict. -/
theorem decode_eq_notInSpec {b0 b1 : Byte} (h : ¬ (b0 = 0x0F#8 ∧ b1 = 0xA2#8)) : decode b0 b1 = .notInSpec b0 b1 :=
  if_neg h

/-- The encoding of every instruction is two bytes that decode to it. -/
theorem encode_eq_pair : ∀ i : Instr, ∃ b0 b1, encode i = [b0, b1] ∧ decode b0 b1 = .instr i
  | .cpuid =>
    have ⟨_, _, hpair⟩ := Laws.RoundTrip.cpuid
    hpair

/-- A pair that decodes to an instruction is its encoding. -/
theorem encode_of_decode {b0 b1 : Byte} {i : Instr} (h : decode b0 b1 = .instr i) : encode i = [b0, b1] := by
  cases i with
  | cpuid =>
    obtain ⟨rfl, rfl⟩ := (decode_eq_cpuid_iff b0 b1).1 h
    exact encode_cpuid

/-- A 16-bit number of the table is two bytes, its high byte at the lower address (log entry 18). -/
theorem tableBytes_sixteen (w : Nat) : tableBytes 16 w = [BitVec.ofNat 8 (w / 256), BitVec.ofNat 8 w] := by
  simp [tableBytes, bytesMsbFirst]

theorem decodeTableWord_sixteen (w : Nat) (i : Instr) :
    decodeTableWord 16 w = some i ↔ decode (BitVec.ofNat 8 (w / 256)) (BitVec.ofNat 8 w) = .instr i := by
  simp only [decodeTableWord, tableBytes_sixteen]
  cases decode (BitVec.ofNat 8 (w / 256)) (BitVec.ofNat 8 w) <;> simp

/-- Settles O2: the decoder's test is the hypothesis. -/
theorem everyOtherBytePairIsNotInSpec : Obligations.EveryOtherBytePairIsNotInSpec :=
  fun _ _ => decode_eq_notInSpec

/-- Settles O3: the first pair is CPUID's, each of the others differs from it in a byte. -/
theorem decoderTableWords : Obligations.DecoderTableWords := by
  unfold Obligations.DecoderTableWords
  refine ⟨(decode_eq_cpuid_iff _ _).2 ⟨rfl, rfl⟩, ?_, ?_, ?_, ?_, ?_, ?_, ?_⟩ <;>
    exact decode_eq_notInSpec (by decide)

/-- Settles O4: the number's two bytes are 0Fh and A2h exactly where it is 0FA2h. -/
theorem onlyTheTableMatchDecodes : Obligations.OnlyTheTableMatchDecodes := by
  unfold Obligations.OnlyTheTableMatchDecodes
  intro w hw
  rw [decodeTableWord_sixteen, decode_eq_cpuid_iff, ← BitVec.toNat_inj, ← BitVec.toNat_inj]
  simp only [BitVec.toNat_ofNat]
  omega

end Sys2Proof
end

section
/-! SUPPORT. The outcomes of the step, one lemma per check (60_exceptions.md R153, R163), and of the fetch. -/

namespace Sys2Proof.Machine

theorem Memory.readBytes_two_eq_none {m : Memory} {a : Nat} (h : Memory.readBytes m a 2 = none) :
    Memory.read m a = none ∨ Memory.read m (a + 1) = none := by
  cases h0 : Memory.read m a with
  | none => exact .inl rfl
  | some b0 =>
    cases h1 : Memory.read m (a + 1) with
    | none => exact .inr rfl
    | some b1 => simp [Memory.readBytes, h0, h1] at h

/-- A read that answers bytes answers as many as were asked for. -/
theorem Memory.length_of_readBytes {m : Memory} {a n : Nat} {bs : List Byte} (h : Memory.readBytes m a n = some bs) :
    bs.length = n := by
  induction n generalizing a bs with
  | zero =>
    cases h
    rfl
  | succ n ih =>
    simp only [Memory.readBytes] at h
    split at h
    · cases h
    next b _ =>
      obtain ⟨rest, hrest, rfl⟩ := Option.map_eq_some_iff.1 h
      simp [ih hrest]

theorem fetchPair_of_readBytes_eq_none {s : State} (h : Memory.readBytes s.text s.pc.toNat 2 = none) :
    fetchPair s = .error (.textByteAbsent s.pc) := by
  simp [fetchPair, h]

/-- A fetch fails only on a byte that was not placed. -/
theorem readBytes_eq_none_of_fetchPair {s : State} {f : Fault} (h : fetchPair s = .error f) :
    Memory.readBytes s.text s.pc.toNat 2 = none := by
  cases hread : Memory.readBytes s.text s.pc.toNat 2 with
  | none => rfl
  | some bs =>
    obtain ⟨b0, b1, rfl⟩ := List.length_eq_two.1 (Memory.length_of_readBytes hread)
    rw [fetchPair_of_readBytes hread] at h
    cases h

section
variable {s : State}

theorem step_of_trapFlag (hTF : s.flags.TF = true) : step s = .refused .trapFlagSet := by
  simp [step, hTF]

variable (hTF : s.flags.TF = false)
include hTF

theorem step_of_pcAtTop (hpc : 0xFFFFFFFD < s.pc.toNat) : step s = .refused .pcAtTopOfAddressSpace := by
  simp [step, hTF, s.pcAtTop_eq_true.2 hpc]

variable (hpc : s.pc.toNat ≤ 0xFFFFFFFD)
include hpc

theorem step_of_fetch_error {f : Fault} (hfetch : fetchPair s = .error f) : step s = .fault f := by
  simp [step, hTF, s.pcAtTop_eq_false.2 hpc, hfetch]

variable {b0 b1 : Byte} (hbytes : Memory.readBytes s.text s.pc.toNat 2 = some [b0, b1])
include hbytes

theorem step_of_notInSpec (hdecode : decode b0 b1 = .notInSpec b0 b1) : step s = .refused (.notInSpec b0 b1) := by
  simp [step, hTF, s.pcAtTop_eq_false.2 hpc, fetchPair_of_readBytes hbytes, hdecode]

theorem step_of_instr {i : Instr} (hdecode : decode b0 b1 = .instr i) : step s = exec i s := by
  simp [step, hTF, s.pcAtTop_eq_false.2 hpc, fetchPair_of_readBytes hbytes, hdecode]

end

/-- A fault of the step comes from the fetch or from the decoded instruction's meaning. -/
theorem step_fault_cases {s : State} {f : Fault} (h : step s = .fault f) :
    fetchPair s = .error f ∨ ∃ i, exec i s = .fault f := by
  unfold step at h
  split at h
  · cases h
  split at h
  · cases h
  split at h
  next hfetch =>
    cases h
    exact .inl hfetch
  next =>
    split at h
    · cases h
    next i _ => exact .inr ⟨i, h⟩

/-- Settles O5: the fetch reads the stored bytes back, and they decode to the instruction they encode. -/
theorem storedEncodingIsWhatStepRuns : Obligations.StoredEncodingIsWhatStepRuns := by
  unfold Obligations.StoredEncodingIsWhatStepRuns
  intro i s m _ hTF hpc hstore
  refine ⟨?_, fun _ _ => encode_of_decode⟩
  obtain ⟨b0, b1, hencode, hdecode⟩ := encode_eq_pair i
  have hbytes : Memory.readBytes m s.pc.toNat 2 = some [b0, b1] := by
    rw [hencode] at hstore
    exact Memory.readBytes_writeBytes hstore
  exact step_of_instr (s := { s with text := m }) hTF hpc hbytes hdecode

/-- Settles O6: the last check of the step passed. -/
theorem stepRunsTheDecodedInstruction : Obligations.StepRunsTheDecodedInstruction := by
  unfold Obligations.StepRunsTheDecodedInstruction
  intro s b0 b1 i hTF hpc hbytes hdecode _
  exact step_of_instr hTF hpc hbytes hdecode

/-- Settles O7: one clause for each check. -/
theorem stepChecksInOrder : Obligations.StepChecksInOrder := by
  unfold Obligations.StepChecksInOrder
  refine fun s => ⟨step_of_trapFlag, step_of_pcAtTop, fun hTF hpc habsent => ?_, fun hTF hpc b0 b1 hbytes hne => ?_⟩
  · exact step_of_fetch_error hTF hpc (fetchPair_of_readBytes_eq_none habsent)
  · exact step_of_notInSpec hTF hpc hbytes (decode_eq_notInSpec hne)

end Sys2Proof.Machine
end

section
/-! SUPPORT. The outcomes of CPUID: with `exec_cpuid_vendor` and `exec_cpuid_cache` one lemma for each branch, and that there
is no other (40_cpuid.md R80 to R88). -/

namespace Sys2Proof.Machine

section
variable {s : State}

theorem exec_cpuid_of_pcAtTop (hpc : 0xFFFFFFFD < s.pc.toNat) : exec .cpuid s = .refused .pcAtTopOfAddressSpace := by
  simp [exec_cpuid, execCpuid, s.pcAtTop_eq_true.2 hpc]

variable (hpc : s.pc.toNat ≤ 0xFFFFFFFD)
include hpc

/-- Input 1 completes on every part. -/
theorem exec_cpuid_version (hinput : s.regs.EAX = 0x00000001#32) :
    exec .cpuid s = .next ((returnVersion s).advance .cpuid) := by
  simp [exec_cpuid, execCpuid, s.pcAtTop_eq_false.2 hpc, State.read, hinput, selectLeaf_version]

variable (habove : maxLeaf s.cfg < s.regs.EAX.toNat)
include habove

theorem exec_cpuid_aboveMax_refuse (hpolicy : s.cfg.outOfRange = .refuse) :
    exec .cpuid s = .refused .cpuidInputAboveMax := by
  simp [exec_cpuid, execCpuid, s.pcAtTop_eq_false.2 hpc, State.read, selectLeaf_aboveMax habove, hpolicy]

theorem exec_cpuid_aboveMax_draw4 (hpolicy : s.cfg.outOfRange = .draw4) :
    exec .cpuid s = .next ((returnDraws s).advance .cpuid) := by
  simp [exec_cpuid, execCpuid, s.pcAtTop_eq_false.2 hpc, State.read, selectLeaf_aboveMax habove, hpolicy]

end

/-- CPUID is refused for one of two reasons or answers a next state. -/
theorem exec_cpuid_refused_or_next (s : State) :
    (0xFFFFFFFD < s.pc.toNat ∧ exec .cpuid s = .refused .pcAtTopOfAddressSpace) ∨
    (maxLeaf s.cfg < s.regs.EAX.toNat ∧ s.cfg.outOfRange = .refuse ∧ exec .cpuid s = .refused .cpuidInputAboveMax) ∨
    ∃ t, exec .cpuid s = .next t := by
  rcases Nat.lt_or_ge 0xFFFFFFFD s.pc.toNat with hpc | hpc
  · exact .inl ⟨hpc, exec_cpuid_of_pcAtTop hpc⟩
  rcases selectLeaf_cases s.cfg s.regs.EAX with ⟨h0, -⟩ | ⟨h1, -⟩ | ⟨c, h2, hc, -⟩ | ⟨habove, -⟩
  · exact .inr (.inr ⟨_, exec_cpuid_vendor hpc h0⟩)
  · exact .inr (.inr ⟨_, exec_cpuid_version hpc h1⟩)
  · exact .inr (.inr ⟨_, exec_cpuid_cache hpc h2 hc⟩)
  · cases hpolicy : s.cfg.outOfRange with
    | refuse => exact .inr (.inl ⟨habove, rfl, exec_cpuid_aboveMax_refuse hpc habove hpolicy⟩)
    | draw4 => exact .inr (.inr ⟨_, exec_cpuid_aboveMax_draw4 hpc habove hpolicy⟩)

theorem exec_cpuid_ne_fault (s : State) (f : Fault) : exec .cpuid s ≠ .fault f := by
  rcases exec_cpuid_refused_or_next s with ⟨-, h⟩ | ⟨-, -, h⟩ | ⟨t, h⟩ <;> simp [h]

/-- Either refusal names its reason. -/
theorem exec_cpuid_refused_cases {s : State} {r : Refusal} (h : exec .cpuid s = .refused r) :
    (r = .pcAtTopOfAddressSpace ∧ 0xFFFFFFFD < s.pc.toNat) ∨
    (r = .cpuidInputAboveMax ∧ maxLeaf s.cfg < s.regs.EAX.toNat ∧ s.cfg.outOfRange = .refuse) := by
  rcases exec_cpuid_refused_or_next s with ⟨hpc, h'⟩ | ⟨habove, hpolicy, h'⟩ | ⟨t, h'⟩ <;> rw [h'] at h <;> cases h
  · exact .inl ⟨rfl, hpc⟩
  · exact .inr ⟨rfl, habove, hpolicy⟩

theorem one_le_maxLeaf (cfg : CpuidConfig) : 1 ≤ maxLeaf cfg := by
  unfold maxLeaf
  split <;> decide

theorem maxLeaf_le_two (cfg : CpuidConfig) : maxLeaf cfg ≤ 2 := by
  unfold maxLeaf
  split <;> decide

theorem maxLeaf_of_caches {cfg : CpuidConfig} {c : CacheWords} (h : cfg.caches = some c) : maxLeaf cfg = 2 := by
  simp [maxLeaf, h]

/-- Where CPUID completes, the pc fits and the input is recognised or the part's policy draws. -/
theorem exec_cpuid_next_conditions {s t : State} (h : exec .cpuid s = .next t) :
    s.pc.toNat ≤ 0xFFFFFFFD ∧ (s.regs.EAX.toNat ≤ maxLeaf s.cfg ∨ s.cfg.outOfRange = .draw4) := by
  obtain ⟨htop, hcases⟩ := execCpuid_next_cases h
  refine ⟨s.pcAtTop_eq_false.1 htop, ?_⟩
  rcases hcases with ⟨(h0 : s.regs.EAX = _), -⟩ | ⟨(h1 : s.regs.EAX = _), -⟩ | ⟨c, (h2 : s.regs.EAX = _), hc, -⟩ |
    ⟨-, hpolicy, -⟩
  · simp [h0]
  · exact .inl (by simpa [h1] using one_le_maxLeaf s.cfg)
  · simp [h2, maxLeaf_of_caches hc]
  · exact .inr hpolicy

/-- Settles O8: no instruction faults, so the fault is the fetch's. -/
theorem stepFaultsOnlyOnAbsentText : Obligations.StepFaultsOnlyOnAbsentText := by
  unfold Obligations.StepFaultsOnlyOnAbsentText
  intro s f h
  rcases step_fault_cases h with hfetch | ⟨i, hexec⟩
  · have habsent := readBytes_eq_none_of_fetchPair hfetch
    rw [fetchPair_of_readBytes_eq_none habsent] at hfetch
    cases hfetch
    exact ⟨rfl, Memory.readBytes_two_eq_none habsent⟩
  · cases i with
    | cpuid => exact absurd hexec (exec_cpuid_ne_fault s f)

/-- Settles O9: the result of the vendor leaf, and `maxLeaf` on the named configurations. -/
theorem cpuidInputZeroReturnsVendor : Obligations.CpuidInputZeroReturnsVendor := by
  unfold Obligations.CpuidInputZeroReturnsVendor
  refine ⟨fun s hpc hinput => ?_, fun _ _ _ => rfl, fun _ _ _ _ => rfl, fun _ _ _ _ => ⟨rfl, rfl⟩⟩
  rw [exec_cpuid_vendor hpc hinput, returnVendor_eq]
  rfl

/-- Settles O10: the result of the version leaf. -/
theorem cpuidInputOneReturnsVersionAndFeatures : Obligations.CpuidInputOneReturnsVersionAndFeatures := by
  unfold Obligations.CpuidInputOneReturnsVersionAndFeatures
  intro s hpc hinput
  rw [exec_cpuid_version hpc hinput, returnVersion_eq]
  rfl

/-- Settles O11: the result of the cache leaf. -/
theorem cpuidInputTwoReturnsCacheWords : Obligations.CpuidInputTwoReturnsCacheWords := by
  unfold Obligations.CpuidInputTwoReturnsCacheWords
  intro s c hpc hinput hcaches
  rw [exec_cpuid_cache hpc hinput hcaches, returnCache_eq]
  rfl

/-- Settles O12: the policy decides, and the result under `draw4` is the four draws. -/
theorem cpuidInputAboveMaximum : Obligations.CpuidInputAboveMaximum := by
  unfold Obligations.CpuidInputAboveMaximum
  refine fun s hpc habove => ⟨exec_cpuid_aboveMax_refuse hpc habove, fun hpolicy => ?_⟩
  rw [exec_cpuid_aboveMax_draw4 hpc habove hpolicy, returnDraws_eq]
  rfl

/-- Settles O13: the first check of CPUID. -/
theorem cpuidRefusedAtTopOfAddressSpace : Obligations.CpuidRefusedAtTopOfAddressSpace :=
  fun _ => exec_cpuid_of_pcAtTop

/-- Settles O14: the conditions of a next state exclude both refusals. -/
theorem cpuidCompletesExactlyWhen : Obligations.CpuidCompletesExactlyWhen := by
  unfold Obligations.CpuidCompletesExactlyWhen
  refine fun s => ⟨fun ⟨t, h⟩ => exec_cpuid_next_conditions h, fun ⟨hpc, hinput⟩ => ?_⟩
  rcases exec_cpuid_refused_or_next s with ⟨htop, -⟩ | ⟨habove, hrefuse, -⟩ | hnext
  · omega
  · simp [hrefuse] at hinput
    omega
  · exact hnext

/-- Settles O15: neither refusal is a fault, and each has its condition. -/
theorem cpuidStopsOnlyByTwoRefusals : Obligations.CpuidStopsOnlyByTwoRefusals :=
  fun s => ⟨exec_cpuid_ne_fault s, fun _ => exec_cpuid_refused_cases⟩

end Sys2Proof.Machine
end

section
/-! SUPPORT. What CPUID leaves unchanged and what it does not read, said once for the instruction, for a step and for a run
(40_cpuid.md R81, R86 to R89; 60_exceptions.md R163). -/

namespace Sys2Proof.Machine

/-- CPUID reads the pc, EAX, the part and the draw counter, and changes the four registers, the pc and the draw counter: a state
that agrees on the former ends in the same values of the latter and keeps what else it holds. -/
theorem exec_cpuid_next_of_agree {s s' t : State} (hpc : s'.pc = s.pc) (hinput : s'.regs.EAX = s.regs.EAX)
    (hcfg : s'.cfg = s.cfg) (hdraw : s'.drawCount = s.drawCount) (h : exec .cpuid s = .next t) :
    exec .cpuid s' = .next { s' with regs := t.regs, pc := s.pc + 2#32, drawCount := t.drawCount } := by
  obtain ⟨htop, hcases⟩ := execCpuid_next_cases h
  have hpc' : s'.pc.toNat ≤ 0xFFFFFFFD := hpc ▸ s.pcAtTop_eq_false.1 htop
  rcases hcases with ⟨h0, rfl⟩ | ⟨h1, rfl⟩ | ⟨c, h2, hc, rfl⟩ | ⟨habove, hpolicy, rfl⟩
  · rw [exec_cpuid_vendor hpc' (hinput.trans h0)]
    simp [returnVendor_eq, State.advance, instrLength, hpc, hcfg, hdraw]
  · rw [exec_cpuid_version hpc' (hinput.trans h1)]
    simp [returnVersion_eq, State.advance, instrLength, hpc, hcfg, hdraw]
  · rw [exec_cpuid_cache hpc' (hinput.trans h2) (hcfg ▸ hc)]
    simp [returnCache_eq, State.advance, instrLength, hpc, hdraw]
  · rw [exec_cpuid_aboveMax_draw4 hpc' (hcfg ▸ hinput ▸ habove) (hcfg ▸ hpolicy)]
    simp [returnDraws_eq, State.advance, instrLength, hpc, hdraw]

/-- For a refusal the draw counter does not matter. -/
theorem exec_cpuid_refused_of_agree {s s' : State} {r : Refusal} (hpc : s'.pc = s.pc)
    (hinput : s'.regs.EAX = s.regs.EAX) (hcfg : s'.cfg = s.cfg) (h : exec .cpuid s = .refused r) :
    exec .cpuid s' = .refused r := by
  rcases Nat.lt_or_ge 0xFFFFFFFD s.pc.toNat with htop | hfits
  · rw [exec_cpuid_of_pcAtTop htop] at h
    exact (exec_cpuid_of_pcAtTop (hpc ▸ htop)).trans h
  · rcases exec_cpuid_refused_cases h with ⟨-, htop⟩ | ⟨rfl, habove, hpolicy⟩
    · omega
    · exact exec_cpuid_aboveMax_refuse (hpc ▸ hfits) (hcfg ▸ hinput ▸ habove) (hcfg ▸ hpolicy)

/-- The frame of CPUID as a whole state (R87, R88). -/
theorem exec_cpuid_next_eq {s t : State} (h : exec .cpuid s = .next t) :
    t = { s with regs := t.regs, pc := s.pc + 2#32, drawCount := t.drawCount } :=
  Host.Outcome.next.inj (h.symm.trans (exec_cpuid_next_of_agree rfl rfl rfl rfl h))

theorem exec_cpuid_sameFixedState {s t : State} (h : exec .cpuid s = .next t) : SameFixedState s t := by
  rw [exec_cpuid_next_eq h]
  exact ⟨rfl, rfl, rfl, rfl⟩

theorem exec_cpuid_pc {s t : State} (h : exec .cpuid s = .next t) : t.pc = s.pc + 2#32 := by
  rw [exec_cpuid_next_eq h]

/-- The pc does not wrap, because CPUID completes below the top only. -/
theorem exec_cpuid_pc_toNat {s t : State} (h : exec .cpuid s = .next t) : t.pc.toNat = s.pc.toNat + 2 := by
  obtain ⟨htop, -⟩ := execCpuid_next_cases h
  calc t.pc.toNat = (s.advance .cpuid).pc.toNat := by rw [exec_cpuid_pc h]; rfl
    _ = s.pc.toNat + 2 := s.advance_pc_toNat .cpuid htop

theorem step_sameFixedState {s t : State} (h : step s = .next t) : SameFixedState s t := by
  obtain ⟨-, -, _, _, i, -, -, hexec⟩ := step_next_cases h
  cases i with
  | cpuid => exact exec_cpuid_sameFixedState hexec

theorem step_noEventDelivered {s t : State} (h : step s = .next t) : noEventDelivered s t := by
  obtain ⟨-, -, _, _, i, -, -, hexec⟩ := step_next_cases h
  cases i with
  | cpuid => exact exec_cpuid_pc_toNat hexec

theorem SameFixedState.refl (s : State) : SameFixedState s s := ⟨rfl, rfl, rfl, rfl⟩

theorem SameFixedState.trans {s t u : State} (hst : SameFixedState s t) (htu : SameFixedState t u) :
    SameFixedState s u :=
  ⟨htu.flags.trans hst.flags, htu.text.trans hst.text, htu.cfg.trans hst.cfg, htu.system.trans hst.system⟩

/-- The invariant speaks of flags and text only. -/
theorem SameFixedState.inv {s t : State} (hst : SameFixedState s t) (hs : s.Inv) : t.Inv := by
  obtain ⟨hTF, hwf⟩ := hs
  exact ⟨hst.flags ▸ hTF, hst.text ▸ hwf⟩

/-- A run of `k + 1` steps that completes is a step that completes and a run of `k`. -/
theorem run_succ_eq_next {k : Nat} {s t : State} (h : Host.Core.run Sys2Proof.core (k + 1) s = .next t) :
    ∃ u, step s = .next u ∧ Host.Core.run Sys2Proof.core k u = .next t := by
  simp only [Host.Core.run] at h
  split at h
  next u hstep => exact ⟨u, hstep, h⟩
  · cases h
  · cases h

/-- Settles O25: the fixed state contains what the invariant speaks of. -/
theorem stepKeepsInvariant : Obligations.StepKeepsInvariant := by
  unfold Obligations.StepKeepsInvariant
  intro s t hs hstep
  have hfixed : SameFixedState s t := step_sameFixedState hstep
  exact ⟨hfixed.inv hs, step_noEventDelivered hstep, hfixed⟩

/-- Settles O26, by induction on the number of steps. -/
theorem runChangesOnlyResults : Obligations.RunChangesOnlyResults := by
  unfold Obligations.RunChangesOnlyResults
  intro k
  induction k with
  | zero =>
    intro s t h
    cases h
    exact ⟨.refl s, rfl⟩
  | succ k ih =>
    intro s t h
    obtain ⟨u, hstep, hrun⟩ := run_succ_eq_next h
    obtain ⟨hfixed, hpc⟩ := ih u t hrun
    have hpcu : u.pc.toNat = s.pc.toNat + 2 := step_noEventDelivered hstep
    exact ⟨(step_sameFixedState hstep).trans hfixed, by omega⟩

/-- Settles O16: the flags are no input, and they are part of the fixed state. -/
theorem cpuidLeavesEveryFlag : Obligations.CpuidLeavesEveryFlag := by
  unfold Obligations.CpuidLeavesEveryFlag
  intro s t h
  refine ⟨fun fl => ?_, ?_⟩
  · rw [exec_cpuid_next_eq h]
    exact exec_cpuid_next_of_agree (s' := { s with flags := fl }) (t := t) rfl rfl rfl rfl h
  · rw [(exec_cpuid_sameFixedState h).flags]
    exact ⟨rfl, rfl, rfl, rfl, rfl, rfl, rfl, rfl, rfl, rfl, rfl, rfl, rfl, rfl, rfl, rfl, rfl⟩

/-- Settles O17: the fixed state and the pc. -/
theorem cpuidFrame : Obligations.CpuidFrame := by
  unfold Obligations.CpuidFrame
  intro s t h
  obtain ⟨hflags, htext, hcfg, hsystem⟩ := exec_cpuid_sameFixedState h
  exact ⟨hflags, hsystem, hcfg, fun a => by rw [htext], exec_cpuid_pc h, exec_cpuid_pc_toNat h⟩

/-- Settles O18: neither the system state nor the flags are an input. -/
theorem cpuidIgnoresPrivilegeModeAndFlags : Obligations.CpuidIgnoresPrivilegeModeAndFlags := by
  unfold Obligations.CpuidIgnoresPrivilegeModeAndFlags
  refine fun s sys fl => ⟨fun t h => ?_, fun r h => exec_cpuid_refused_of_agree (s := s) rfl rfl rfl h⟩
  rw [exec_cpuid_next_eq h]
  exact exec_cpuid_next_of_agree (s' := { s with system := sys, flags := fl }) (t := t) rfl rfl rfl rfl h

/-- Settles O19: EBX, ECX and EDX are no input, and all four registers are replaced. -/
theorem cpuidIgnoresOldEbxEcxEdx : Obligations.CpuidIgnoresOldEbxEcxEdx := by
  unfold Obligations.CpuidIgnoresOldEbxEcxEdx
  intro s b c d
  cases h : exec .cpuid s with
  | next t =>
    rw [exec_cpuid_next_eq h]
    exact exec_cpuid_next_of_agree (s' := { s with regs := ⟨s.regs.EAX, b, c, d⟩ }) (t := t) rfl rfl rfl rfl h
  | fault f => exact absurd h (exec_cpuid_ne_fault s f)
  | refused r => exact exec_cpuid_refused_of_agree rfl rfl rfl h

/-- Settles O23: the step leaves the text, and its next pc is where the bytes were stored. -/
theorem storeBeforeCpuidIsSeenByNextFetch : Obligations.StoreBeforeCpuidIsSeenByNextFetch := by
  unfold Obligations.StoreBeforeCpuidIsSeenByNextFetch
  intro s t m c0 c1 hstore hstep
  have htext : t.text = m := (step_sameFixedState hstep).text
  have hpc : t.pc.toNat = s.pc.toNat + 2 := step_noEventDelivered (s := { s with text := m }) hstep
  apply fetchPair_of_readBytes
  rw [htext, hpc]
  exact Memory.readBytes_writeBytes hstore

end Sys2Proof.Machine
end

section
/-! SUPPORT. What software reads from the registers after CPUID with a recognised input (40_cpuid.md R93, 70_reset_and_hazards.md
R183, R184). -/

namespace Sys2Proof.Machine

section
variable {s t : State} (h : exec .cpuid s = .next t)
include h

theorem exec_cpuid_next_vendor (hinput : s.regs.EAX = 0x00000000#32) : t = (returnVendor s).advance .cpuid := by
  obtain ⟨hpc, -⟩ := exec_cpuid_next_conditions h
  exact Host.Outcome.next.inj (h.symm.trans (exec_cpuid_vendor hpc hinput))

theorem exec_cpuid_next_version (hinput : s.regs.EAX = 0x00000001#32) : t = (returnVersion s).advance .cpuid := by
  obtain ⟨hpc, -⟩ := exec_cpuid_next_conditions h
  exact Host.Outcome.next.inj (h.symm.trans (exec_cpuid_version hpc hinput))

theorem exec_cpuid_next_cache {c : CacheWords} (hinput : s.regs.EAX = 0x00000002#32) (hcaches : s.cfg.caches = some c) :
    t = (returnCache s c).advance .cpuid := by
  obtain ⟨hpc, -⟩ := exec_cpuid_next_conditions h
  exact Host.Outcome.next.inj (h.symm.trans (exec_cpuid_cache hpc hinput hcaches))

end

/-- `maxLeaf` fits in the word that returns it. -/
theorem toNat_ofNat_maxLeaf (cfg : CpuidConfig) : (BitVec.ofNat 32 (maxLeaf cfg)).toNat = maxLeaf cfg := by
  have hle := maxLeaf_le_two cfg
  rw [BitVec.toNat_ofNat, Nat.mod_eq_of_lt (by omega)]

/-- The cache words' EAX has 01h in AL on every part (D15). -/
theorem repeatCount_cacheEax (c : CacheWords) : repeatCount (cacheEax c) = 0x01#8 := cacheEax_setWidth c

theorem write_EAX_regs_EAX (s : State) (v : Word) : (s.write .EAX v).regs.EAX = v := s.read_write_same .EAX v

/-- Settles O20: the input selects one leaf in both states, and only the version leaf draws. -/
theorem cpuidResultsDependOnInputAlone : Obligations.CpuidResultsDependOnInputAlone := by
  unfold Obligations.CpuidResultsDependOnInputAlone
  intro s1 s2 t1 t2 hcfg hinput hmax h1 h2
  obtain ⟨-, ⟨(h : s1.regs.EAX = _), rfl⟩ | ⟨(h : s1.regs.EAX = _), rfl⟩ | ⟨c, (h : s1.regs.EAX = _), hc, rfl⟩ |
    ⟨habove, -, -⟩⟩ := execCpuid_next_cases h1
  · rw [exec_cpuid_next_vendor h2 (hinput ▸ h)]
    simp [returnVendor_eq, hcfg]
  · rw [exec_cpuid_next_version h2 (hinput ▸ h)]
    simp [returnVersion_eq, hcfg, h]
  · rw [exec_cpuid_next_cache h2 (hinput ▸ h) (hcfg ▸ hc)]
    simp [returnCache_eq]
  · exact absurd habove (Nat.not_lt.2 hmax)

/-- Settles O21: what input 0 leaves in EAX is the maximum of the same part. -/
theorem returnedMaximumIsRecognised : Obligations.ReturnedMaximumIsRecognised := by
  unfold Obligations.ReturnedMaximumIsRecognised
  intro s t hinput h hpc
  have hcfg : t.cfg = s.cfg := (exec_cpuid_sameFixedState h).cfg
  have hEAX : t.regs.EAX.toNat = maxLeaf t.cfg := by
    rw [hcfg, exec_cpuid_next_vendor h hinput, State.advance_regs, returnVendor_eq]
    exact toNat_ofNat_maxLeaf s.cfg
  obtain ⟨u, hu⟩ := (cpuidCompletesExactlyWhen t).2 ⟨hpc, .inl hEAX.le⟩
  refine ⟨hEAX.le, u, hu, (exec_cpuid_sameFixedState hu).cfg.trans hcfg, ?_⟩
  rw [exec_cpuid_pc_toNat hu, exec_cpuid_pc_toNat h]

/-- Settles O22: both executions return the cache words of the one part. -/
theorem cacheDescriptionNeedsOneExecution : Obligations.CacheDescriptionNeedsOneExecution := by
  unfold Obligations.CacheDescriptionNeedsOneExecution
  intro s t hinput hcaches h
  obtain ⟨c, hc⟩ := Option.isSome_iff_exists.1 hcaches
  have hregs : t.regs = { EAX := cacheEax c, EBX := c.EBX, ECX := c.ECX, EDX := c.EDX } := by
    rw [exec_cpuid_next_cache h hinput hc, State.advance_regs, returnCache_eq]
  refine ⟨by rw [hregs]; exact repeatCount_cacheEax c, fun u hu => ?_⟩
  have hcfg : (t.write .EAX 0x00000002#32).cfg.caches = some c := by
    rw [State.write_cfg, (exec_cpuid_sameFixedState h).cfg, hc]
  rw [exec_cpuid_next_cache hu (write_EAX_regs_EAX _ _) hcfg, State.advance_regs, returnCache_eq, hregs]

/-- The feature word of the part is what input 1 leaves in EDX, whatever was executed before. -/
theorem exec_cpuid_write_one_EDX {s t : State} (h : exec .cpuid (s.write .EAX 0x00000001#32) = .next t) :
    t.regs.EDX = s.cfg.features := by
  rw [exec_cpuid_next_version h (write_EAX_regs_EAX _ _), State.advance_regs, returnVersion_eq, State.write_cfg]

/-- The check passes on the three vendor words only. -/
theorem isIntel_iff (b d c : Word) : isIntel b d c = true ↔ b = vendorEBX ∧ d = vendorEDX ∧ c = vendorECX := by
  rw [isIntel, beq_iff_eq, ← vendorChars_vendor_words]
  constructor
  · exact vendorChars_inj
  · rintro ⟨rfl, rfl, rfl⟩
    rfl

/-- Settles O33: both feature words are the part's. -/
theorem vendorCheckAcceptsExactlyIntel : Obligations.VendorCheckAcceptsExactlyIntel := by
  unfold Obligations.VendorCheckAcceptsExactlyIntel
  refine ⟨isIntel_iff, fun s t u _ ht _ hu => ?_⟩
  have hEDX : u.regs.EDX = s.cfg.features := by
    rw [exec_cpuid_write_one_EDX hu, (exec_cpuid_sameFixedState ht).cfg]
  exact ⟨hEDX, fun u' hu' => by rw [hEDX, exec_cpuid_write_one_EDX hu']⟩

end Sys2Proof.Machine
end

section
/-! SUPPORT. The model's reset state, and the first step from it (10_state.md R33; log entries 3, 6, 20). -/

namespace Sys2Proof.Machine

/-- Settles O24: every flag is clear and the text is empty. -/
theorem invariantHoldsAtReset : Obligations.InvariantHoldsAtReset := ⟨rfl, rfl⟩

/-- Settles O27: EFLAGS is the word of a record with every flag clear, the rest are the fields as reset sets them. -/
theorem resetValues : Obligations.ResetValues :=
  ⟨rfl, rfl, Flags.reset_toWord, rfl, rfl, rfl, rfl⟩

/-- The table's number for CPUID is the instruction's encoding. -/
theorem tableBytes_cpuid : tableBytes 16 0x0FA2 = encode .cpuid := by
  rw [tableBytes_sixteen, encode_cpuid]
  rfl

/-- The text of the reset state with CPUID placed at its pc. -/
theorem reset_withFetchWord_text :
    (State.reset.withFetchWord 16 0x0FA2).text = [(0xFFFFFFF0, 0x0F#8), (0xFFFFFFF1, 0xA2#8)] := by
  rw [State.withFetchWord, tableBytes_cpuid]
  rfl

/-- Settles O28: the placed word is fetched, and EAX = 0 selects the vendor words. -/
theorem tableWordRunsFirstAfterReset : Obligations.TableWordRunsFirstAfterReset := by
  unfold Obligations.TableWordRunsFirstAfterReset
  have hpc : (State.reset.withFetchWord 16 0x0FA2).pc.toNat ≤ 0xFFFFFFFD := by decide
  have hbytes : Memory.readBytes (State.reset.withFetchWord 16 0x0FA2).text 0xFFFFFFF0 2 = some [0x0F#8, 0xA2#8] := by
    rw [reset_withFetchWord_text]
    decide
  have hstep := step_of_instr (s := State.reset.withFetchWord 16 0x0FA2) rfl hpc hbytes
    ((decode_eq_cpuid_iff _ _).2 ⟨rfl, rfl⟩)
  exact ⟨_, hstep.trans (exec_cpuid_vendor hpc rfl), rfl, rfl, rfl, rfl⟩

end Sys2Proof.Machine
end

section
/-! SUPPORT. Registers and EFLAGS as words (10_state.md R20, R21, R25). -/

namespace Sys2Proof.Machine

/-- Settles O29: the laws of a register write; a low byte is byte 0 of what its register reads. -/
theorem registerWriteAndAlias : Obligations.RegisterWriteAndAlias := by
  unfold Obligations.RegisterWriteAndAlias
  intro s r q v
  refine ⟨s.read_write_same r v, s.read_write_of_ne r q v, ?_, fun hne => ?_, s.write_pc r v, s.write_flags r v,
    s.write_text r v, s.write_cfg r v, s.write_system r v, s.write_drawCount r v⟩
  · rw [State.readLow, State.read_write_same]
    rfl
  · rw [State.readLow, State.read_write_of_ne s r q v hne, State.readLow]

theorem Flags.toWord_IOPL (f : Flags) : f.toWord.extractLsb' 12 2 = f.IOPL := by
  apply BitVec.eq_of_getLsbD_eq
  intro i hi
  rw [BitVec.getLsbD_extractLsb', Flags.toWord_getLsbD f (12 + i) (by omega)]
  match i, hi with
  | 0, _ => rfl
  | 1, _ => rfl

theorem Flags.toWord_reservedHigh (f : Flags) : f.toWord.extractLsb' 22 10 = f.reservedHigh := by
  apply BitVec.eq_of_getLsbD_eq
  intro i hi
  rw [BitVec.getLsbD_extractLsb', Flags.toWord_getLsbD f (22 + i) (by omega), Nat.add_comm]
  simp [hi, Flags.bit]

/-- The record of a word has the word's bits, but for bit 1, which reads as 1. -/
theorem Flags.ofWord_bit (w : Word) {i : Nat} (hi : i < 32) :
    (Flags.ofWord w).bit i = (w.getLsbD i || decide (i = 1)) := by
  rcases Nat.lt_or_ge i 22 with hlow | hhigh
  · interval_cases i <;> simp [Flags.bit, Flags.ofWord]
  · obtain ⟨n, rfl⟩ := Nat.exists_eq_add_of_le' hhigh
    simp [Flags.bit, Flags.ofWord, show n < 10 by omega, Nat.add_comm]

theorem Flags.ofWord_toWord (f : Flags) : Flags.ofWord f.toWord = f := by
  simp only [Flags.ofWord, Flags.toWord_getLsbD, Nat.reduceLT, Flags.bit, Flags.toWord_IOPL, Flags.toWord_reservedHigh]

theorem Flags.toWord_ofWord (w : Word) : (Flags.ofWord w).toWord = w ||| 0x00000002#32 := by
  refine Flags.toWord_eq_of_bits _ _ fun i hi => ?_
  have hbitOne : (0x00000002#32).getLsbD i = decide (i = 1) := by
    rw [show 0x00000002#32 = BitVec.twoPow 32 1 from rfl, BitVec.getLsbD_twoPow]
    simp [eq_comm]
  rw [Flags.ofWord_bit w hi, BitVec.getLsbD_or, hbitOne]

/-- Settles O30: each bit of the word view is a field of the record, and each bit of the record a bit of the word. -/
theorem eflagsWordViewRoundTrip : Obligations.EflagsWordViewRoundTrip := by
  unfold Obligations.EflagsWordViewRoundTrip
  refine ⟨Flags.ofWord_toWord, Flags.toWord_ofWord, fun f => ?_⟩
  have hbit (i : Nat) (hi : i < 32 := by decide) : f.toWord.getLsbD i = f.bit i := f.toWord_getLsbD i hi
  exact ⟨hbit 0, hbit 1, hbit 2, hbit 3, hbit 4, hbit 5, hbit 6, hbit 7, hbit 8, hbit 9, hbit 10, hbit 11,
    f.toWord_IOPL, hbit 14, hbit 15, hbit 16, hbit 17, hbit 18, hbit 19, hbit 20, hbit 21, f.toWord_reservedHigh⟩

end Sys2Proof.Machine
end

section
/-! SUPPORT. The admitted records and the configurations are in one-to-one correspondence (00_scope.md R6, R7, D25). -/

namespace Sys2Proof.Machine

/-- The cache words a record stands for: the byte that admission fixes, the repeat count, is left out. -/
def ofCacheRecord (c : CacheRecord) : CacheWords where
  eaxDescriptors := c.EAX.extractLsb' 8 24
  EBX := c.EBX
  ECX := c.ECX
  EDX := c.EDX

/-- The configuration a record stands for: `MAXLEAF`, which admission fixes, is left out. -/
def ofConfigRecord (r : ConfigRecord) : CpuidConfig where
  version := r.VERSION
  features := r.FEATURES
  caches := r.CACHE.map ofCacheRecord
  outOfRange := r.CPUID_OUT_OF_RANGE
  paeAddressBits := r.paeAddressBits

theorem extractLsb'_cacheEax (c : CacheWords) : (cacheEax c).extractLsb' 8 24 = c.eaxDescriptors := by
  apply BitVec.eq_of_getLsbD_eq
  intro i hi
  rw [BitVec.getLsbD_extractLsb', cacheEax_getLsbD]
  simp [hi]

theorem ofCacheRecord_cacheRecord (c : CacheWords) : ofCacheRecord (cacheRecord c) = c := by
  simp [ofCacheRecord, cacheRecord, extractLsb'_cacheEax]

theorem cacheRecord_ofCacheRecord {c : CacheRecord} (hcount : c.EAX.setWidth 8 = 0x01#8) :
    cacheRecord (ofCacheRecord c) = c := by
  simp [ofCacheRecord, cacheRecord, cacheEax, append_count_eq hcount]

theorem ofConfigRecord_configRecord (cfg : CpuidConfig) : ofConfigRecord (configRecord cfg) = cfg := by
  have hcaches : ofCacheRecord ∘ cacheRecord = id := funext ofCacheRecord_cacheRecord
  simp [ofConfigRecord, configRecord, hcaches]

/-- An admitted record is that of its configuration: the shape of the type gives back what was forgotten (log entry 2). -/
theorem configRecord_ofConfigRecord {r : ConfigRecord} (h : r.admitted = true) : configRecord (ofConfigRecord r) = r := by
  obtain ⟨maxleaf, version, features, cache, policy, bits⟩ := r
  cases cache with
  | none =>
    have hmax : maxleaf = 1 := by simpa [ConfigRecord.admitted] using h
    simp [configRecord, ofConfigRecord, maxLeaf, hmax]
  | some c =>
    obtain ⟨hmax, hcount⟩ : maxleaf = 2 ∧ c.EAX.setWidth 8 = 0x01#8 := by simpa [ConfigRecord.admitted] using h
    simp [configRecord, ofConfigRecord, maxLeaf, hmax, cacheRecord_ofCacheRecord hcount]

/-- Settles O31: `ofConfigRecord` is the inverse of `configRecord` on the admitted records. -/
theorem admittedRecordsAreTheConfigurations : Obligations.AdmittedRecordsAreTheConfigurations := by
  unfold Obligations.AdmittedRecordsAreTheConfigurations
  refine ⟨fun r => ⟨fun h => ⟨_, configRecord_ofConfigRecord h⟩, ?_⟩, fun c d h => ?_⟩
  · rintro ⟨cfg, rfl⟩
    exact configRecord_admitted cfg
  · exact Function.LeftInverse.injective ofConfigRecord_configRecord h

end Sys2Proof.Machine
end

section
/-! SUPPORT. Input 1: the fields of the version word (41_cpuid_information.md R103 to R106; log entry 15). -/

namespace Sys2Proof.Machine

section
variable (upper : BitVec 18) (t : BitVec 2) (f m st : BitVec 4)

/-- A field of a composed word, bit by bit. -/
theorem fieldOf_versionWord_getLsbD (hi lo i : Nat) (h : i < hi - lo + 1) :
    (fieldOf hi lo (versionWord upper t f m st)).getLsbD i =
      if lo + i < 4 then st.getLsbD (lo + i)
      else if lo + i < 8 then m.getLsbD (lo + i - 4)
      else if lo + i < 12 then f.getLsbD (lo + i - 8)
      else if lo + i < 14 then t.getLsbD (lo + i - 12)
      else upper.getLsbD (lo + i - 14) := by
  rw [fieldOf_getLsbD _ _ _ _ h, versionWord_getLsbD]

theorem stepping_versionWord : stepping (versionWord upper t f m st) = st := by
  refine BitVec.eq_of_getLsbD_eq fun i hi => ?_
  rw [stepping, fieldOf_versionWord_getLsbD _ _ _ _ _ 3 0 i hi]
  simp [hi]

theorem model_versionWord : model (versionWord upper t f m st) = m := by
  refine BitVec.eq_of_getLsbD_eq fun i hi => ?_
  rw [model, fieldOf_versionWord_getLsbD _ _ _ _ _ 7 4 i hi, if_neg (by omega), if_pos (by omega),
    Nat.add_sub_cancel_left]

theorem family_versionWord : family (versionWord upper t f m st) = f := by
  refine BitVec.eq_of_getLsbD_eq fun i hi => ?_
  rw [family, fieldOf_versionWord_getLsbD _ _ _ _ _ 11 8 i hi, if_neg (by omega), if_neg (by omega), if_pos (by omega),
    Nat.add_sub_cancel_left]

theorem ptype_versionWord : ptype (versionWord upper t f m st) = t := by
  refine BitVec.eq_of_getLsbD_eq fun i hi => ?_
  rw [ptype, fieldOf_versionWord_getLsbD _ _ _ _ _ 13 12 i hi, if_neg (by omega), if_neg (by omega),
    if_neg (by omega), if_pos (by omega), Nat.add_sub_cancel_left]

end

/-- Every word is composed of its fields and its upper bits. -/
theorem versionWord_fields (v : Word) :
    versionWord (v.extractLsb' 14 18) (ptype v) (family v) (model v) (stepping v) = v := by
  refine BitVec.eq_of_getLsbD_eq fun i hi => ?_
  rw [versionWord_getLsbD]
  split
  next h => rw [stepping, fieldOf_getLsbD 3 0 v i h, Nat.zero_add]
  split
  next h4 h8 => rw [model, fieldOf_getLsbD 7 4 v (i - 4) (by omega), Nat.add_sub_cancel' (by omega)]
  split
  next h8 h12 => rw [family, fieldOf_getLsbD 11 8 v (i - 8) (by omega), Nat.add_sub_cancel' (by omega)]
  split
  next h12 h14 => rw [ptype, fieldOf_getLsbD 13 12 v (i - 12) (by omega), Nat.add_sub_cancel' (by omega)]
  next h14 =>
    rw [BitVec.getLsbD_extractLsb', Nat.add_sub_cancel' (by omega)]
    simp [show i - 14 < 18 by omega]

/-- Settles O34: each field of a composed word, and the composition of a word's fields. -/
theorem versionWordFields : Obligations.VersionWordFields :=
  ⟨fun upper t f m st => ⟨ptype_versionWord upper t f m st, family_versionWord upper t f m st,
    model_versionWord upper t f m st, stepping_versionWord upper t f m st⟩, versionWord_fields⟩

/-- Settles O35: the part's version word is composed of the four fields. -/
theorem firstPentiumProVersion : Obligations.FirstPentiumProVersion := by
  unfold Obligations.FirstPentiumProVersion
  intro s st features p hcfg hpc hinput
  refine ⟨_, exec_cpuid_version hpc hinput, ?_⟩
  rw [State.advance_regs, returnVersion_eq, hcfg]
  dsimp only [pproFirst]
  rw [model_versionWord, family_versionWord, ptype_versionWord, stepping_versionWord]
  exact ⟨rfl, rfl, rfl, rfl, rfl⟩

/-- Settles O36: the code table, and a configuration for a word with any other fields. -/
theorem processorTypeCodes : Obligations.ProcessorTypeCodes := by
  unfold Obligations.ProcessorTypeCodes
  refine ⟨by decide, by decide, by decide, by decide, fun upper f m st => ?_⟩
  exact ⟨pentium (versionWord upper 0b11#2 f m st) 0#32 .refuse 32, rfl, configRecord_admitted _⟩

end Sys2Proof.Machine
end

section
/-! SUPPORT. Input 1: the reserved feature bits (41_cpuid_information.md R124, D4). -/

namespace Sys2Proof.Machine

/-- Words that agree on the defined positions report the same flags. -/
theorem hasFeature_congr {v w : Word} (h : v &&& definedFeatureMask = w &&& definedFeatureMask) :
    hasFeature v = hasFeature w := by
  funext f
  rw [← hasFeature_mask v f, h, hasFeature_mask]

/-- Settles O39: the masks and positions are finite facts, and all decoding goes through `hasFeature`. -/
theorem reservedFeatureBitsAreIgnored : Obligations.ReservedFeatureBitsAreIgnored := by
  unfold Obligations.ReservedFeatureBitsAreIgnored
  refine ⟨⟨by decide, by decide⟩, by decide, fun v w h => ?_⟩
  have hflags : hasFeature v = hasFeature w := hasFeature_congr h
  exact ⟨by rw [featuresOf, featuresOf, hflags], fun x => by rw [reports, reports, hflags]⟩

end Sys2Proof.Machine
end

section
/-! SUPPORT. Input 2: the descriptors of a register, and their order (41_cpuid_information.md R126 to R132). -/

namespace Sys2Proof.Machine

theorem descriptors_of_reserved {v : Word} (h : v.getLsbD 31 = true) (isEax : Bool) : descriptors v isEax = [] := by
  simp [descriptors, bitOf, h]

theorem descriptors_eax_of_valid {v : Word} (h : v.getLsbD 31 = false) :
    descriptors v true = [byteOf 1 v, byteOf 2 v, byteOf 3 v] := by
  simp only [descriptors, bitOf, h]
  rfl

theorem descriptors_other_of_valid {v : Word} (h : v.getLsbD 31 = false) :
    descriptors v false = [byteOf 0 v, byteOf 1 v, byteOf 2 v, byteOf 3 v] := by
  simp only [descriptors, bitOf, h]
  rfl

/-- Settles O42: bit 31 decides, and the bytes are those of R127. -/
theorem descriptorExtraction : Obligations.DescriptorExtraction :=
  fun _ => ⟨descriptors_of_reserved, fun h => ⟨descriptors_eax_of_valid h, descriptors_other_of_valid h⟩⟩

theorem sameInventory_iff_perm (l m : List Byte) :
    sameInventory l m = true ↔ (l.filter (· != 0x00#8)).Perm (m.filter (· != 0x00#8)) :=
  List.isPerm_iff

/-- Order alone does not count. -/
theorem sameInventory_of_perm {l m : List Byte} (h : l.Perm m) : sameInventory l m = true :=
  (sameInventory_iff_perm l m).2 (h.filter _)

/-- How often the list holds a descriptor that is not the null one. -/
theorem count_filter_ne_null (l : List Byte) (x : Byte) :
    (l.filter (· != 0x00#8)).count x = if x = 0x00#8 then 0 else l.count x := by
  split
  next h =>
    subst h
    exact List.count_eq_zero.2 (by simp)
  next h => exact List.count_filter (by simpa using h)

theorem sameInventory_iff_count (l m : List Byte) :
    sameInventory l m = true ↔ ∀ x : Byte, x ≠ 0x00#8 → l.count x = m.count x := by
  simp only [sameInventory_iff_perm, List.perm_iff_count, count_filter_ne_null]
  refine forall_congr' fun x => ?_
  by_cases hx : x = 0x00#8 <;> simp [hx]

theorem descriptorsOfWords_swap_ebx_ecx (a b c d : Word) :
    (descriptorsOfWords a b c d).Perm (descriptorsOfWords a c b d) := by
  simp only [descriptorsOfWords, List.append_assoc]
  exact List.perm_append_comm_assoc _ _ _ |>.append_left _

theorem descriptorsOfWords_swap_ecx_edx (a b c d : Word) :
    (descriptorsOfWords a b c d).Perm (descriptorsOfWords a b d c) := by
  simp only [descriptorsOfWords, List.append_assoc]
  exact List.perm_append_comm.append_left _ |>.append_left _

/-- Settles O43: an exchange permutes the list, and the count of 42h tells the two parts apart. -/
theorem descriptorPositionCarriesNoMeaning : Obligations.DescriptorPositionCarriesNoMeaning := by
  unfold Obligations.DescriptorPositionCarriesNoMeaning
  refine ⟨fun a b c d => ⟨?_, ?_⟩, sameInventory_iff_count, ?_⟩
  · exact sameInventory_of_perm (descriptorsOfWords_swap_ebx_ecx a b c d)
  · exact sameInventory_of_perm (descriptorsOfWords_swap_ecx_edx a b c d)
  · rw [Bool.eq_false_iff, Ne, sameInventory_iff_count]
    intro h
    exact absurd (h 0x42#8 (by decide)) (by decide)

end Sys2Proof.Machine
end
